-- ==== Sys2Proof/Word.lean ====
section
/-! DEFINITION. The fixed-width words of the MLAU: the register index, the command word, the flag
field and the amount port. A limb is NOT a bit vector here: spec/00_scope.md R7 and R10 make it an
integer in `0 .. 2^W - 1`, since `W` is a parameter of the block. -/

namespace Sys2Proof

/-- A 4-bit value-register index (R5, R20): every index `0 .. 15` names a register. -/
abbrev Reg := Fin 16

/-- The 32-bit command word on port `cmd` (R74). -/
abbrev CmdWord := BitVec 32

/-- The seven flags of one value, `flags[6:0]` (R23, R24). -/
abbrev Flags := BitVec 7

/-- The 32-bit two's complement shift amount on port `amt_in` (R73). -/
abbrev Amount := BitVec 32

end Sys2Proof
end

