-- ==== Sys2Proof/Machine/Flags.lean ====
section
/-! DEFINITION. The seven flags, their bit positions and masks (spec/10_state.md R24), the
condition-flag accumulator (spec/41_flags.md R120), and every condition a command newly detects
(R27): OVERFLOW of a sum or product, UNDERFLOW of a difference, the two shift carries. -/

namespace Sys2Proof.Machine

/-- The seven condition flags (R23). -/
inductive Flag where
  | overflow
  | underflow
  | infinity
  | dividedByZero
  | undefinedFlag
  | leftCarry
  | rightCarry
  deriving DecidableEq, Repr

/-- The bit position of a flag, which is its index `f` in the flag commands (R24). -/
def Flag.index : Flag → Nat
  | .overflow => 0
  | .underflow => 1
  | .infinity => 2
  | .dividedByZero => 3
  | .undefinedFlag => 4
  | .leftCarry => 5
  | .rightCarry => 6

/-- The mask of the flag at bit `f`: `2^f` (R24). -/
def flagBit (f : Nat) : Flags := BitVec.ofNat 7 (2 ^ f)

/-- The mask of a flag (R24). -/
def Flag.mask (f : Flag) : Flags := flagBit f.index

/-- A newly detected condition: the flag if it holds, else nothing. -/
def newly (f : Flag) (holds : Bool) : Flags := if holds then f.mask else 0

/-- OVERFLOW if the exact sum or product is `>= 2^T` (R136, R137, R151, R152). -/
def overflowOf (T : Nat) (exact : Nat) : Flags := newly .overflow (decide (2 ^ T ≤ exact))

/-- UNDERFLOW if the exact difference is negative (R139, R140). -/
def underflowOf (exact : Int) : Flags := newly .underflow (decide (exact < 0))

/-- The accumulator with one value operand: its flags and the new conditions (R120). -/
def accumulate (fa new : Flags) : Flags := fa ||| new

/-- The accumulator with two value operands: the flags of both and the new conditions (R120). -/
def accumulate₂ (fa fb new : Flags) : Flags := fa ||| fb ||| new

/-- Bit `f` of the flags, as the integer `(flags div 2^f) mod 2` (R121). -/
def readFlag (fl : Flags) (f : Nat) : Nat := fl.toNat / 2 ^ f % 2

/-- `flags | 2^f` (R122). -/
def setFlag (fl : Flags) (f : Nat) : Flags := fl ||| flagBit f

/-- `flags & ~_7 (2^f)` (R123). -/
def clearFlag (fl : Flags) (f : Nat) : Flags := fl &&& ~~~(flagBit f)

/-- `shl_core` (R175): the result and the newly detected conditions, for a magnitude `m`. -/
def shlCore (T a m : Nat) : Nat × Flags :=
  if T ≤ m then (0, Flag.leftCarry.mask)
  else (a * 2 ^ m % 2 ^ T, newly .leftCarry (decide (2 ^ T ≤ a * 2 ^ m)))

/-- `shr_core` (R175). -/
def shrCore (T a m : Nat) : Nat × Flags :=
  if T ≤ m then (0, Flag.rightCarry.mask)
  else (a / 2 ^ m, newly .rightCarry (decide (a % 2 ^ m ≠ 0)))

end Sys2Proof.Machine
end

