-- ==== Sys2Proof/Syntax.lean ====
section
/-! DEFINITION. The thirty commands of the block (spec/30_encoding.md R80), one constructor per row
of spec/opcode_table.json, with the fields of the command word each form uses (R75, R76). The port
operands `limb_in` and `amt_in` are no fields of the word (R72, R73): the state holds them as
sampled at acceptance. The thirteen operand forms stand beside them. -/

namespace Sys2Proof

/-- A decoded command. `rd`, `ra`, `rb` are register fields; `idx` and `f` are unsigned integers
taken straight from the word (R75). -/
inductive Instr where
  | zero (rd : Reg)
  | one (rd : Reg)
  | max (rd : Reg)
  | fromw (rd : Reg)
  | mov (rd ra : Reg)
  | setl (rd : Reg) (idx : Nat)
  | getl (ra : Reg) (idx : Nat)
  | add (rd ra rb : Reg)
  | adds (rd ra : Reg)
  | sub (rd ra rb : Reg)
  | subs (rd ra : Reg)
  | mul (rd ra rb : Reg)
  | muls (rd ra : Reg)
  | div (rd ra rb : Reg)
  | divs (rd ra : Reg)
  | rem (rd ra rb : Reg)
  | rems (rd ra : Reg)
  | shl (rd ra : Reg)
  | shr (rd ra : Reg)
  | and (rd ra rb : Reg)
  | or (rd ra rb : Reg)
  | xor (rd ra rb : Reg)
  | not (rd ra : Reg)
  | cmp (ra rb : Reg)
  | cmps (ra : Reg)
  | tstf (ra : Reg) (f : Nat)
  | setf (rd : Reg) (f : Nat)
  | clrf (rd : Reg) (f : Nat)
  | clrall (rd : Reg)
  | rdf (ra : Reg)
  deriving DecidableEq, Repr

/-- The thirteen operand forms of R76. -/
inductive Form where
  | D | DL | DA | DAB | DAL | DAS | DXL | AX | AB | AL | A | AF | DF
  deriving DecidableEq, Repr

/-- The form of each command (R76, R80). -/
def Instr.form : Instr → Form
  | .zero _ => .D
  | .one _ => .D
  | .max _ => .D
  | .fromw _ => .DL
  | .mov _ _ => .DA
  | .setl _ _ => .DXL
  | .getl _ _ => .AX
  | .add _ _ _ => .DAB
  | .adds _ _ => .DAL
  | .sub _ _ _ => .DAB
  | .subs _ _ => .DAL
  | .mul _ _ _ => .DAB
  | .muls _ _ => .DAL
  | .div _ _ _ => .DAB
  | .divs _ _ => .DAL
  | .rem _ _ _ => .DAB
  | .rems _ _ => .DAL
  | .shl _ _ => .DAS
  | .shr _ _ => .DAS
  | .and _ _ _ => .DAB
  | .or _ _ _ => .DAB
  | .xor _ _ _ => .DAB
  | .not _ _ => .DA
  | .cmp _ _ => .AB
  | .cmps _ => .AL
  | .tstf _ _ => .AF
  | .setf _ _ => .DF
  | .clrf _ _ => .DF
  | .clrall _ => .D
  | .rdf _ => .A

end Sys2Proof
end

