-- ==== Sys2Proof/WellFormed.lean ====
section
/-! DEFINITION. Which instructions a command word can spell: the limb index fits the 12-bit `idx`
field and the flag index the 3-bit `f` field (spec/30_encoding.md R75). Register fields are bounded
by their type. `f = 7` and any `idx` are well formed (R81): they fault when performed, not here. -/

namespace Sys2Proof

/-- The 12-bit limb-index field (R75). -/
def idxFits (idx : Nat) : Bool := decide (idx < 4096)

/-- The 3-bit flag-index field (R75). -/
def flagFits (f : Nat) : Bool := decide (f < 8)

/-- Every field of the command fits its place in the word. -/
def Instr.wf : Instr → Bool
  | .zero _ => true
  | .one _ => true
  | .max _ => true
  | .fromw _ => true
  | .mov _ _ => true
  | .setl _ idx => idxFits idx
  | .getl _ idx => idxFits idx
  | .add _ _ _ => true
  | .adds _ _ => true
  | .sub _ _ _ => true
  | .subs _ _ => true
  | .mul _ _ _ => true
  | .muls _ _ => true
  | .div _ _ _ => true
  | .divs _ _ => true
  | .rem _ _ _ => true
  | .rems _ _ => true
  | .shl _ _ => true
  | .shr _ _ => true
  | .and _ _ _ => true
  | .or _ _ _ => true
  | .xor _ _ _ => true
  | .not _ _ => true
  | .cmp _ _ => true
  | .cmps _ => true
  | .tstf _ f => flagFits f
  | .setf _ f => flagFits f
  | .clrf _ f => flagFits f
  | .clrall _ => true
  | .rdf _ => true

end Sys2Proof
end

