-- ==== Sys2Proof/Decode.lean ====
section
/-! DEFINITION. Decoding and encoding of the command word (spec/30_encoding.md R74 to R77, R80,
R81). The decoder is total on all `2^32` words and depends on the word alone (R77): a word is
exactly one command, or illegal (`none`). The encoder is written from the same tables (R75). -/

namespace Sys2Proof

/-- `bits[lo+len-1 : lo]` of the word as an unsigned integer (R7). -/
def field (w : CmdWord) (lo len : Nat) : Nat := w.toNat / 2 ^ lo % 2 ^ len

/-- `op`, bits 31:24 (R75). -/
def opField (w : CmdWord) : Nat := field w 24 8

/-- A register field: the 4 bits from `lo` up (R75). -/
def regField (w : CmdWord) (lo : Nat) : Reg := Fin.ofNat 16 (field w lo 4)

/-- `rd`, bits 23:20. -/
def rdField (w : CmdWord) : Reg := regField w 20

/-- `ra`, bits 19:16. -/
def raField (w : CmdWord) : Reg := regField w 16

/-- `rb`, bits 15:12. -/
def rbField (w : CmdWord) : Reg := regField w 12

/-- `idx`, bits 11:0. -/
def idxField (w : CmdWord) : Nat := field w 0 12

/-- `f`, bits 2:0. -/
def flagField (w : CmdWord) : Nat := field w 0 3

/-- The fixed bits of a form: the opcode and every field the form does not use (R76). -/
def Form.mask : Form → CmdWord
  | .D => 0xFF0FFFFF#32
  | .DL => 0xFF0FFFFF#32
  | .DA => 0xFF00FFFF#32
  | .DAB => 0xFF000FFF#32
  | .DAL => 0xFF00FFFF#32
  | .DAS => 0xFF00FFFF#32
  | .DXL => 0xFF0FF000#32
  | .AX => 0xFFF0F000#32
  | .AB => 0xFFF00FFF#32
  | .AL => 0xFFF0FFFF#32
  | .A => 0xFFF0FFFF#32
  | .AF => 0xFFF0FFF8#32
  | .DF => 0xFF0FFFF8#32

/-- The second test of R77: the word is an instance of a command with opcode `w[31:24]` and form
`fm` exactly when `w & mask = op * 2^24`; otherwise it is illegal. -/
def ofForm (fm : Form) (w : CmdWord) (i : Instr) : Option Instr :=
  if w &&& fm.mask = BitVec.ofNat 32 (opField w * 2 ^ 24) then some i else none

/-- The decoder of R77 over the opcode map of R80. `none` is an illegal word (R81). -/
def decode (w : CmdWord) : Option Instr :=
  match opField w with
  | 0x01 => ofForm .D w (.zero (rdField w))
  | 0x02 => ofForm .D w (.one (rdField w))
  | 0x03 => ofForm .D w (.max (rdField w))
  | 0x04 => ofForm .DL w (.fromw (rdField w))
  | 0x05 => ofForm .DA w (.mov (rdField w) (raField w))
  | 0x06 => ofForm .DXL w (.setl (rdField w) (idxField w))
  | 0x07 => ofForm .AX w (.getl (raField w) (idxField w))
  | 0x10 => ofForm .DAB w (.add (rdField w) (raField w) (rbField w))
  | 0x11 => ofForm .DAL w (.adds (rdField w) (raField w))
  | 0x12 => ofForm .DAB w (.sub (rdField w) (raField w) (rbField w))
  | 0x13 => ofForm .DAL w (.subs (rdField w) (raField w))
  | 0x20 => ofForm .DAB w (.mul (rdField w) (raField w) (rbField w))
  | 0x21 => ofForm .DAL w (.muls (rdField w) (raField w))
  | 0x30 => ofForm .DAB w (.div (rdField w) (raField w) (rbField w))
  | 0x31 => ofForm .DAL w (.divs (rdField w) (raField w))
  | 0x32 => ofForm .DAB w (.rem (rdField w) (raField w) (rbField w))
  | 0x33 => ofForm .DAL w (.rems (rdField w) (raField w))
  | 0x40 => ofForm .DAS w (.shl (rdField w) (raField w))
  | 0x41 => ofForm .DAS w (.shr (rdField w) (raField w))
  | 0x50 => ofForm .DAB w (.and (rdField w) (raField w) (rbField w))
  | 0x51 => ofForm .DAB w (.or (rdField w) (raField w) (rbField w))
  | 0x52 => ofForm .DAB w (.xor (rdField w) (raField w) (rbField w))
  | 0x53 => ofForm .DA w (.not (rdField w) (raField w))
  | 0x60 => ofForm .AB w (.cmp (raField w) (rbField w))
  | 0x61 => ofForm .AL w (.cmps (raField w))
  | 0x70 => ofForm .AF w (.tstf (raField w) (flagField w))
  | 0x71 => ofForm .DF w (.setf (rdField w) (flagField w))
  | 0x72 => ofForm .DF w (.clrf (rdField w) (flagField w))
  | 0x73 => ofForm .D w (.clrall (rdField w))
  | 0x74 => ofForm .A w (.rdf (raField w))
  | _ => none

/-- `cmd = op * 2^24 + rd * 2^20 + ra * 2^16 + rb * 2^12 + idx` (R75). -/
def assemble (op : Nat) (rd ra rb : Reg) (idx : Nat) : CmdWord :=
  BitVec.ofNat 32 (op * 2 ^ 24 + rd.val * 2 ^ 20 + ra.val * 2 ^ 16 + rb.val * 2 ^ 12 + idx)

/-- The opcode of each command (R80). -/
def Instr.opcode : Instr → Nat
  | .zero _ => 0x01
  | .one _ => 0x02
  | .max _ => 0x03
  | .fromw _ => 0x04
  | .mov _ _ => 0x05
  | .setl _ _ => 0x06
  | .getl _ _ => 0x07
  | .add _ _ _ => 0x10
  | .adds _ _ => 0x11
  | .sub _ _ _ => 0x12
  | .subs _ _ => 0x13
  | .mul _ _ _ => 0x20
  | .muls _ _ => 0x21
  | .div _ _ _ => 0x30
  | .divs _ _ => 0x31
  | .rem _ _ _ => 0x32
  | .rems _ _ => 0x33
  | .shl _ _ => 0x40
  | .shr _ _ => 0x41
  | .and _ _ _ => 0x50
  | .or _ _ _ => 0x51
  | .xor _ _ _ => 0x52
  | .not _ _ => 0x53
  | .cmp _ _ => 0x60
  | .cmps _ => 0x61
  | .tstf _ _ => 0x70
  | .setf _ _ => 0x71
  | .clrf _ _ => 0x72
  | .clrall _ => 0x73
  | .rdf _ => 0x74

/-- The encoder: the word of a command, "every field a command does not use being zero" (R75). -/
def encode (i : Instr) : CmdWord :=
  match i with
  | .zero rd => assemble i.opcode rd 0 0 0
  | .one rd => assemble i.opcode rd 0 0 0
  | .max rd => assemble i.opcode rd 0 0 0
  | .fromw rd => assemble i.opcode rd 0 0 0
  | .mov rd ra => assemble i.opcode rd ra 0 0
  | .setl rd idx => assemble i.opcode rd 0 0 idx
  | .getl ra idx => assemble i.opcode 0 ra 0 idx
  | .add rd ra rb => assemble i.opcode rd ra rb 0
  | .adds rd ra => assemble i.opcode rd ra 0 0
  | .sub rd ra rb => assemble i.opcode rd ra rb 0
  | .subs rd ra => assemble i.opcode rd ra 0 0
  | .mul rd ra rb => assemble i.opcode rd ra rb 0
  | .muls rd ra => assemble i.opcode rd ra 0 0
  | .div rd ra rb => assemble i.opcode rd ra rb 0
  | .divs rd ra => assemble i.opcode rd ra 0 0
  | .rem rd ra rb => assemble i.opcode rd ra rb 0
  | .rems rd ra => assemble i.opcode rd ra 0 0
  | .shl rd ra => assemble i.opcode rd ra 0 0
  | .shr rd ra => assemble i.opcode rd ra 0 0
  | .and rd ra rb => assemble i.opcode rd ra rb 0
  | .or rd ra rb => assemble i.opcode rd ra rb 0
  | .xor rd ra rb => assemble i.opcode rd ra rb 0
  | .not rd ra => assemble i.opcode rd ra 0 0
  | .cmp ra rb => assemble i.opcode 0 ra rb 0
  | .cmps ra => assemble i.opcode 0 ra 0 0
  | .tstf ra f => assemble i.opcode 0 ra 0 f
  | .setf rd f => assemble i.opcode rd 0 0 f
  | .clrf rd f => assemble i.opcode rd 0 0 f
  | .clrall rd => assemble i.opcode rd 0 0 0
  | .rdf ra => assemble i.opcode 0 ra 0 0

/-- The command word that a table row's bits spell: the low `nbits` bits of `w`, every bit above
them 0. Every row of spec/opcode_table.json has 32 bits, the whole instruction. -/
def tableWord (nbits w : Nat) : CmdWord := BitVec.ofNat 32 (w % 2 ^ nbits)

/-- What the decoder reads from an instruction whose bits, numbered as spec/opcode_table.json
numbers them, are the low `nbits` bits of `w`. -/
def decodeTableWord (nbits w : Nat) : Option Instr := decode (tableWord nbits w)

end Sys2Proof
end

