-- ==== Sys2Proof/Config.lean ====
section
/-! DEFINITION. The two structural parameters of the block, `W` and `N` (spec/00_scope.md R4), as
plain data. Every definition and every statement of the model takes them as an argument (through
the state's `cfg`), and nothing fixes them but the reset state's named reference configuration. -/

namespace Sys2Proof

/-- The five limb widths R4 admits. -/
inductive LimbWidth where
  | w8 | w16 | w32 | w64 | w128
  deriving DecidableEq, Repr

/-- `W` in bits (R4). -/
def LimbWidth.bits : LimbWidth → Nat
  | .w8 => 8
  | .w16 => 16
  | .w32 => 32
  | .w64 => 64
  | .w128 => 128

/-- The structural parameters, "fixed when the block is built and never changed afterwards" (R4). -/
structure Config where
  /-- the limb width `W` -/
  width : LimbWidth
  /-- the limb count `N` -/
  count : Nat
  deriving DecidableEq, Repr

/-- Bits per limb, `W`. -/
def Config.W (c : Config) : Nat := c.width.bits

/-- Limbs per value, `N`. -/
def Config.N (c : Config) : Nat := c.count

/-- Total bits of a value, `T = W * N` (R4). -/
def Config.T (c : Config) : Nat := c.W * c.N

/-- The bounds of R4: `1 <= N <= 4096` and `T <= 2^31 - 1` (the widths are bounded by their type). -/
def Config.wf (c : Config) : Bool :=
  decide (1 ≤ c.N) && decide (c.N ≤ 4096) && decide (c.T ≤ 2 ^ 31 - 1)

/-- The document's own configuration, R6(a): `W = 8, N = 64`, `T = 512`. Used only as the
configuration of `State.reset` (notes/assumptions/1.md). -/
def Config.reference : Config := ⟨.w8, 64⟩

end Sys2Proof
end

