-- ==== Sys2Proof/Machine/State.lean ====
section
/-! DEFINITION. The state of the MLAU as plain data (spec/10_state.md): sixteen value registers and
`STATUS`, with the structural parameters (spec/00_scope.md R4) and three fields of the model's own
that carry the command port, the host's next inputs and the responses given
(notes/assumptions/1.md to 5.md). The block has no program counter and no memory (R36, R50). -/

namespace Sys2Proof.Machine

/-- One value register (R20): "a record of three fields". -/
structure ValueReg where
  /-- the constructed bit (R22) -/
  v : Bool
  /-- `N` limbs of `W` bits, limb 0 the least significant (R21, R52) -/
  limbs : List Nat
  /-- the value's own seven sticky flags (R23, R24) -/
  flags : Flags
  deriving DecidableEq, Repr

/-- `STATUS.cause`: exactly five members (R32; spec/93_implementation_defined.md I10). -/
inductive Cause where
  | noFault
  | illegalCommand
  | operandRange
  | unconstructed
  | divideByZero
  deriving DecidableEq, Repr

/-- `STATUS` (R32). -/
structure Status where
  /-- the block has faulted and accepts no command -/
  halted : Bool
  /-- why -/
  cause : Cause
  /-- the command word that faulted -/
  fcmd : CmdWord
  deriving DecidableEq, Repr

/-- What the host presents on the command port: the triple `(cmd, limb_in, amt_in)` (R71). -/
structure Command where
  cmd : CmdWord
  limbIn : Nat
  amtIn : Amount
  deriving DecidableEq, Repr

/-- What the host does next (R268, R274): present a command, or assert reset. -/
inductive HostInput where
  | command (c : Command)
  | reset
  deriving DecidableEq, Repr

/-- The response of an accepted command: the pair `(rsp_fault, rsp_data)` (R78). -/
structure Response where
  fault : Bool
  data : Nat
  deriving DecidableEq, Repr

/-- The whole machine. `regs` and `status` are the spec's state (R20, R32); `cfg` is the block's
structural parameters, which no step changes; `port`, `inputs` and `responses` are the model's. -/
structure State where
  /-- `W` and `N` (R4): a parameter, here so that every definition takes it as an argument -/
  cfg : Config
  /-- `V0 .. V15` (R20) -/
  regs : Vector ValueReg 16
  /-- `STATUS` (R32) -/
  status : Status
  /-- the ports as sampled when the command being performed was accepted (R79(a)) -/
  port : Command
  /-- what the host will do, first item next (R268) -/
  inputs : List HostInput
  /-- the responses given so far, newest first (R78, R268) -/
  responses : List Response
  deriving DecidableEq, Repr

/-- Why a step has no next state. The four faults of the spec are no member: R236 describes their
entry, so a command that raises one goes on to a NEXT state, the halted one. -/
inductive Fault where
  /-- Raised by `step` alone: `STATUS.halted = 1` and the host's next input is not a reset. "A
  halted state has no step other than reset" (R237). SAFE: the model stops where the block does. -/
  | halted
  deriving DecidableEq, Repr

/-- Why an instruction has no meaning in the model. -/
inductive Refusal where
  /-- Raised by `exec`'s arm of an instruction that has no meaning yet; no arm does. SAFE. -/
  | notModelled (mnemonic : String)
  deriving DecidableEq, Repr

/-- What a step or a meaning answers. -/
abbrev Result := Host.Outcome State Fault Refusal

/-- A register that holds no value after reset (R40). `v = 0` is the spec's; the limbs and flags are
unspecified and unobservable there: DESIGN CHOICE zeros, notes/assumptions/3.md. -/
def ValueReg.empty (c : Config) : ValueReg :=
  { v := false, limbs := List.replicate c.N 0, flags := 0 }

/-- `STATUS` after reset (R40). -/
def Status.clear : Status := { halted := false, cause := .noFault, fcmd := 0 }

/-- The state after the first reset of a block built with the parameters `c` (R40, R262). The host
has presented nothing and no response has been given. -/
def State.resetWith (c : Config) : State :=
  { cfg := c
    regs := Vector.replicate 16 (ValueReg.empty c)
    status := Status.clear
    port := { cmd := 0, limbIn := 0, amtIn := 0 }
    inputs := []
    responses := [] }

/-- The state right after reset, for the document's own parameters (notes/assumptions/1.md); every
statement about the machine is made for all parameters. -/
def State.reset : State := State.resetWith Config.reference

end Sys2Proof.Machine
end

