-- ==== Sys2Proof/Machine/Ops.lean ====
section
/-! DEFINITION. The named operations every meaning is written over: the value a limb sequence spells
and back (spec/00_scope.md R8), reading and writing a register, giving a response (R9, R78), taking
a fault as ONE shared operation (spec/60_exceptions.md R236), accepting a command (R79), reset
(R260), and the status outputs (R71). There is no return from a fault but reset (R237). -/

namespace Sys2Proof.Machine

/-! ### Limb sequences (R8) -/

/-- `val(L) = sum of L[i] * 2^(W*i)`, limb 0 least significant (R8, R52). -/
def valOf (W : Nat) : List Nat → Nat
  | [] => 0
  | l :: ls => l + 2 ^ W * valOf W ls

/-- `limbs(x)`, the `n` limbs that spell `x`: limb `i` is `(x div 2^(W*i)) mod 2^W` (R8). -/
def limbsOf (W : Nat) : Nat → Nat → List Nat
  | 0, _ => []
  | n + 1, x => x % 2 ^ W :: limbsOf W n (x / 2 ^ W)

/-! ### The parameters of a state (R4) -/

/-- `W`. -/
def State.W (s : State) : Nat := s.cfg.W

/-- `N`. -/
def State.N (s : State) : Nat := s.cfg.N

/-- `T = W * N`. -/
def State.T (s : State) : Nat := s.cfg.T

/-! ### Registers (R9, R20) -/

/-- `V[i]`. -/
def State.reg (s : State) (i : Reg) : ValueReg := s.regs[i.val]

/-- The number register `i` spells, `val(V[i].limbs)` (R21). -/
def State.value (s : State) (i : Reg) : Nat := valOf s.W (s.reg i).limbs

/-- `V[i].flags`. -/
def State.flags (s : State) (i : Reg) : Flags := (s.reg i).flags

/-- Whether `V[i]` holds a value: `V[i].v = 1` (R22). -/
def State.constructed (s : State) (i : Reg) : Bool := (s.reg i).v

/-- Store a whole record in `V[i]`; no other register changes (R20). -/
def State.setReg (s : State) (i : Reg) (r : ValueReg) : State :=
  { s with regs := s.regs.set i.val r }

/-- `dst(i, x, fl)` (R9): limbs, flags and the constructed bit, written together. -/
def State.dst (s : State) (i : Reg) (x : Nat) (fl : Flags) : State :=
  s.setReg i { v := true, limbs := limbsOf s.W s.N x, flags := fl }

/-- `V[i].limbs[k] <- l`: one limb of the limb space (R51); the rest of `V[i]` is unchanged. -/
def State.setLimb (s : State) (i : Reg) (k l : Nat) : State :=
  s.setReg i { s.reg i with limbs := (s.reg i).limbs.set k l }

/-- `V[i].limbs[k]` (R51). -/
def State.limb (s : State) (i : Reg) (k : Nat) : Nat := (s.reg i).limbs.getD k 0

/-- `V[i].flags <- fl`; limbs and `v` are unchanged (R122 to R124). -/
def State.setFlags (s : State) (i : Reg) (fl : Flags) : State :=
  s.setReg i { s.reg i with flags := fl }

/-! ### Responses and faults (R78, R236) -/

/-- `respond(d)` (R9, R78): the response is `rsp_fault = 0`, `rsp_data = d`. -/
def State.respond (s : State) (d : Nat) : State :=
  { s with responses := { fault := false, data := d } :: s.responses }

/-- `raise Fault(c)`, in full (R236): no value register is written, `STATUS <- (1, c, cmd)` with the
word as accepted, and the response is `rsp_fault = 1`, `rsp_data = 0`. -/
def State.raiseFault (s : State) (c : Cause) : State :=
  { s with
    status := { halted := true, cause := c, fcmd := s.port.cmd }
    responses := { fault := true, data := 0 } :: s.responses }

/-- The answer of a command that faults with cause `c`. -/
def faulted (c : Cause) (s : State) : Result := .next (s.raiseFault c)

/-- The answer of a command that writes `x` with flags `fl` to `rd`; it responds with data 0. -/
def writes (rd : Reg) (x : Nat) (fl : Flags) (s : State) : Result :=
  .next ((s.dst rd x fl).respond 0)

/-- The answer of a command that returns `d` and changes nothing. -/
def answers (d : Nat) (s : State) : Result := .next (s.respond d)

/-! ### The transaction (R79), reset (R260) and idleness (R244) -/

/-- `cmd_ready` (R79(d)): the block will accept a command unless it is halted. -/
def State.cmdReady (s : State) : Bool := !s.status.halted

/-- Acceptance (R79(a)): the ports are sampled, and the host goes on to its next input. -/
def State.accept (s : State) (c : Command) (rest : List HostInput) : State :=
  { s with port := c, inputs := rest }

/-- The reset event (R260): every `v` becomes 0 and `STATUS` clear; "limbs and flags of the registers
are not reset". No response is given. -/
def State.takeReset (s : State) (rest : List HostInput) : State :=
  { s with
    regs := Vector.ofFn fun i => { s.reg i with v := false }
    status := Status.clear
    inputs := rest }

/-- An accepted word that is no command (R77, R231). -/
def illegalWord (s : State) : Result := faulted .illegalCommand s

/-- The host presents nothing: "idleness changes no state" (R244). DESIGN CHOICE that this is a step:
notes/assumptions/6.md. -/
def idle (s : State) : Result := .next s

/-- The host presents a command, or nothing, to a halted block: only reset is enabled (R237). -/
def stuck : Result := .fault .halted

/-! ### The status outputs (R32, R71) -/

/-- The code of each cause on the 4-bit output `cause` (R32). -/
def Cause.code : Cause → BitVec 4
  | .noFault => 0
  | .illegalCommand => 1
  | .operandRange => 2
  | .unconstructed => 3
  | .divideByZero => 4

/-- Output `halted`. -/
def State.haltedOut (s : State) : Bool := s.status.halted

/-- Output `cause`. -/
def State.causeOut (s : State) : BitVec 4 := s.status.cause.code

/-- Output `fcmd`. -/
def State.fcmdOut (s : State) : CmdWord := s.status.fcmd

/-- `rsp_fault`, `rsp_data` of the last accepted command, if one has been accepted (R71, R78). -/
def State.lastResponse (s : State) : Option Response := s.responses.head?

/-! ### The host -/

/-- The host adds an input after those it already means to give (R268). -/
def State.offer (s : State) (x : HostInput) : State := { s with inputs := s.inputs ++ [x] }

end Sys2Proof.Machine
end

