-- ==== Sys2Proof/Machine/Operands.lean ====
section
/-! DEFINITION. Reading the operands of a command: source registers with the constructed check (R9,
R233, R238 step 3), the single-limb port (R72), the signed amount port (R73), and the range checks
of the limb and flag index (R232, R238 step 2). -/

namespace Sys2Proof.Machine

/-- `limb_in` as the block samples it: a `W`-bit port, so an integer in `0 .. 2^W - 1` (R72). -/
def State.limbIn (s : State) : Nat := s.port.limbIn % 2 ^ s.W

/-- The shift amount `n = sext_32(amt_in)`, in `-2^31 .. 2^31 - 1` (R73). -/
def State.amount (s : State) : Int := s.port.amtIn.toInt

/-- Go on only if `V[i]` holds a value (R233). -/
def needs (i : Reg) (s : State) (go : Result) : Result :=
  if s.constructed i then go else faulted .unconstructed s

/-- One source register: `(a, fa) <- src(ra)`. -/
def withSource (ra : Reg) (s : State) (go : Nat → Flags → Result) : Result :=
  needs ra s (go (s.value ra) (s.flags ra))

/-- Two source registers: both are checked before any other read (R238 step 3). -/
def withSources (ra rb : Reg) (s : State) (go : Nat → Flags → Nat → Flags → Result) : Result :=
  needs ra s (needs rb s (go (s.value ra) (s.flags ra) (s.value rb) (s.flags rb)))

/-- The range check of a limb index: `idx >= N` faults (R54, R232). -/
def withLimbIndex (idx : Nat) (s : State) (go : Result) : Result :=
  if s.N ≤ idx then faulted .operandRange s else go

/-- The range check of a flag index: `f = 7` names no flag (R232). No word spells a larger `f`. -/
def withFlagIndex (f : Nat) (s : State) (go : Result) : Result :=
  if 7 ≤ f then faulted .operandRange s else go

/-- The divisor check, after the constructed check (R168, R238 step 4). -/
def withDivisor (b : Nat) (s : State) (go : Result) : Result :=
  if b = 0 then faulted .divideByZero s else go

end Sys2Proof.Machine
end

