-- ==== Sys2Proof/Machine/AddSub.lean ====
section
/-! DEFINITION. The adder and the subtractor (spec/42_add_sub.md): ADD, ADDS, SUB, SUBS, on the
numeric rules R136, R137, R139, R140. The ripple loops R138, R141 stand in Reference.lean. -/

namespace Sys2Proof.Machine

/-- ADD (R136). -/
def execAdd (rd ra rb : Reg) (s : State) : Result :=
  withSources ra rb s fun a fa b fb =>
    writes rd ((a + b) % 2 ^ s.T) (accumulate₂ fa fb (overflowOf s.T (a + b))) s

/-- ADDS (R137): the limb is zero-extended and has no flags. -/
def execAdds (rd ra : Reg) (s : State) : Result :=
  withSource ra s fun a fa =>
    writes rd ((a + s.limbIn) % 2 ^ s.T) (accumulate fa (overflowOf s.T (a + s.limbIn))) s

/-- `d mod 2^T` of an exact difference, in `0 .. 2^T - 1` also for negative `d` (R7, R139). -/
def wrapDifference (T : Nat) (d : Int) : Nat := (d % (2 ^ T : Nat)).toNat

/-- SUB (R139): `ra` is the minuend. -/
def execSub (rd ra rb : Reg) (s : State) : Result :=
  withSources ra rb s fun a fa b fb =>
    let d : Int := (a : Int) - (b : Int)
    writes rd (wrapDifference s.T d) (accumulate₂ fa fb (underflowOf d)) s

/-- SUBS (R140). -/
def execSubs (rd ra : Reg) (s : State) : Result :=
  withSource ra s fun a fa =>
    let d : Int := (a : Int) - (s.limbIn : Int)
    writes rd (wrapDifference s.T d) (accumulate fa (underflowOf d)) s

end Sys2Proof.Machine
end

