-- ==== Sys2Proof/Machine/Compare.lean ====
section
/-! DEFINITION. The comparator (spec/47_compare.md): CMP, CMPS. Comparison is of the numeric values
and of nothing else; no state is written (R200). -/

namespace Sys2Proof.Machine

/-- The one-hot response code: 1 `EQ`, 2 `LT`, 4 `GT` (R200). -/
def compareCode (a b : Nat) : Nat := if a = b then 1 else if a < b then 2 else 4

/-- CMP (R201): `ra` is the left operand. -/
def execCmp (ra rb : Reg) (s : State) : Result :=
  withSources ra rb s fun a _ b _ => answers (compareCode a b) s

/-- CMPS (R202): the limb is zero-extended. -/
def execCmps (ra : Reg) (s : State) : Result :=
  withSource ra s fun a _ => answers (compareCode a s.limbIn) s

end Sys2Proof.Machine
end

