-- ==== Sys2Proof/Machine/ConstructMove.lean ====
section
/-! DEFINITION. Constructing, copying and limb access (spec/40_construct_move.md): ZERO, ONE, MAX,
FROMW, MOV, SETL, GETL. A freshly constructed value has all seven flags clear (R100). -/

namespace Sys2Proof.Machine

/-- ZERO (R101): `dst(rd, 0, 0)`. -/
def execZero (rd : Reg) (s : State) : Result := writes rd 0 0 s

/-- ONE (R102): `dst(rd, 1, 0)`. -/
def execOne (rd : Reg) (s : State) : Result := writes rd 1 0 s

/-- MAX (R103): `dst(rd, 2^T - 1, 0)`. -/
def execMax (rd : Reg) (s : State) : Result := writes rd (2 ^ s.T - 1) 0 s

/-- FROMW (R104): `dst(rd, limb_in, 0)`. -/
def execFromw (rd : Reg) (s : State) : Result := writes rd s.limbIn 0 s

/-- MOV (R105): the copy takes the limbs and the flags. -/
def execMov (rd ra : Reg) (s : State) : Result :=
  withSource ra s fun x fl => writes rd x fl s

/-- SETL (R106): range check, constructed check, then one limb. -/
def execSetl (rd : Reg) (idx : Nat) (s : State) : Result :=
  withLimbIndex idx s <| needs rd s <| .next ((s.setLimb rd idx s.limbIn).respond 0)

/-- GETL (R107): range check, constructed check, then the limb on `rsp_data`. -/
def execGetl (ra : Reg) (idx : Nat) (s : State) : Result :=
  withLimbIndex idx s <| needs ra s <| answers (s.limb ra idx) s

end Sys2Proof.Machine
end

