-- ==== Sys2Proof/Machine/Divide.lean ====
section
/-! DEFINITION. The divider (spec/44_divide.md): DIV, DIVS, REM, REMS, unsigned floor division (R160).
A zero divisor faults DIVIDE_BY_ZERO after the constructed check (R168); no flag is ever newly set
(R167). The long and short division loops R165, R166 stand in Reference.lean. -/

namespace Sys2Proof.Machine

/-- DIV (R161). -/
def execDiv (rd ra rb : Reg) (s : State) : Result :=
  withSources ra rb s fun a fa b fb =>
    withDivisor b s <| writes rd (a / b) (accumulate₂ fa fb 0) s

/-- DIVS (R162). -/
def execDivs (rd ra : Reg) (s : State) : Result :=
  withSource ra s fun a fa =>
    withDivisor s.limbIn s <| writes rd (a / s.limbIn) (accumulate fa 0) s

/-- REM (R163). -/
def execRem (rd ra rb : Reg) (s : State) : Result :=
  withSources ra rb s fun a fa b fb =>
    withDivisor b s <| writes rd (a % b) (accumulate₂ fa fb 0) s

/-- REMS (R164): a full value, with the dividend's flags. -/
def execRems (rd ra : Reg) (s : State) : Result :=
  withSource ra s fun a fa =>
    withDivisor s.limbIn s <| writes rd (a % s.limbIn) (accumulate fa 0) s

end Sys2Proof.Machine
end

