-- ==== Sys2Proof/Machine/FlagCommands.lean ====
section
/-! DEFINITION. The flag commands (spec/41_flags.md): TSTF, SETF, CLRF, CLRALL, RDF. SETF is the only
way INFINITY, DIVIDED_BY_ZERO or UNDEFINED becomes set (R28); CLRF and CLRALL are the only explicit
resets (R25). -/

namespace Sys2Proof.Machine

/-- TSTF (R121). -/
def execTstf (ra : Reg) (f : Nat) (s : State) : Result :=
  withFlagIndex f s <| needs ra s <| answers (readFlag (s.flags ra) f) s

/-- SETF (R122). -/
def execSetf (rd : Reg) (f : Nat) (s : State) : Result :=
  withFlagIndex f s <| needs rd s <| .next ((s.setFlags rd (setFlag (s.flags rd) f)).respond 0)

/-- CLRF (R123). -/
def execClrf (rd : Reg) (f : Nat) (s : State) : Result :=
  withFlagIndex f s <| needs rd s <| .next ((s.setFlags rd (clearFlag (s.flags rd) f)).respond 0)

/-- CLRALL (R124): the flags of one value register. -/
def execClrall (rd : Reg) (s : State) : Result :=
  needs rd s <| .next ((s.setFlags rd 0).respond 0)

/-- RDF (R125): the seven flags, zero-extended. -/
def execRdf (ra : Reg) (s : State) : Result :=
  needs ra s <| answers (s.flags ra).toNat s

end Sys2Proof.Machine
end

