-- ==== Sys2Proof/Machine/Logic.lean ====
section
/-! DEFINITION. The bitwise logic unit (spec/46_logic.md): AND, OR, XOR, NOT on the `T`-bit numbers,
which is the limb-wise operation (R190). No condition is newly detected and none is cleared. -/

namespace Sys2Proof.Machine

/-- AND (R191). -/
def execAnd (rd ra rb : Reg) (s : State) : Result :=
  withSources ra rb s fun a fa b fb => writes rd (a &&& b) (accumulate₂ fa fb 0) s

/-- OR (R192). -/
def execOr (rd ra rb : Reg) (s : State) : Result :=
  withSources ra rb s fun a fa b fb => writes rd (a ||| b) (accumulate₂ fa fb 0) s

/-- XOR (R193). -/
def execXor (rd ra rb : Reg) (s : State) : Result :=
  withSources ra rb s fun a fa b fb => writes rd (a ^^^ b) (accumulate₂ fa fb 0) s

/-- NOT (R194): `2^T - 1 - a`. -/
def execNot (rd ra : Reg) (s : State) : Result :=
  withSource ra s fun a fa => writes rd (2 ^ s.T - 1 - a) (accumulate fa 0) s

end Sys2Proof.Machine
end

