-- ==== Sys2Proof/Machine/Multiply.lean ====
section
/-! DEFINITION. The multiplier (spec/43_multiply.md): MUL, MULS, unsigned and wrapping, on the numeric
rules R151, R152. The schoolbook loops R153, R154 stand in Reference.lean. -/

namespace Sys2Proof.Machine

/-- MUL (R151). -/
def execMul (rd ra rb : Reg) (s : State) : Result :=
  withSources ra rb s fun a fa b fb =>
    writes rd (a * b % 2 ^ s.T) (accumulate₂ fa fb (overflowOf s.T (a * b))) s

/-- MULS (R152). -/
def execMuls (rd ra : Reg) (s : State) : Result :=
  withSource ra s fun a fa =>
    writes rd (a * s.limbIn % 2 ^ s.T) (accumulate fa (overflowOf s.T (a * s.limbIn))) s

end Sys2Proof.Machine
end

