-- ==== Sys2Proof/Machine/Shift.lean ====
section
/-! DEFINITION. The barrel shifter (spec/45_shift.md): SHL, SHR by a signed amount. A negative amount
reverses the direction, flag included (R176, R177, R181); no amount is illegal (R73). -/

namespace Sys2Proof.Machine

/-- A left shift by a signed amount (R176). -/
def shiftLeft (T a : Nat) (n : Int) : Nat × Flags :=
  if 0 ≤ n then shlCore T a n.toNat else shrCore T a (-n).toNat

/-- A right shift by a signed amount (R177). -/
def shiftRight (T a : Nat) (n : Int) : Nat × Flags :=
  if 0 ≤ n then shrCore T a n.toNat else shlCore T a (-n).toNat

/-- SHL (R176). -/
def execShl (rd ra : Reg) (s : State) : Result :=
  withSource ra s fun a fa =>
    let r := shiftLeft s.T a s.amount
    writes rd r.1 (accumulate fa r.2) s

/-- SHR (R177). -/
def execShr (rd ra : Reg) (s : State) : Result :=
  withSource ra s fun a fa =>
    let r := shiftRight s.T a s.amount
    writes rd r.1 (accumulate fa r.2) s

end Sys2Proof.Machine
end

