-- ==== Sys2Proof/Machine/Dispatch.lean ====
section
/-! DEFINITION. Every command goes to its meaning: one arm per constructor of Instr. -/

namespace Sys2Proof.Machine

def exec (i : Instr) (s : State) : Host.Outcome State Fault Refusal :=
  match i with
  | .zero rd => Sys2Proof.Machine.execZero rd s
  | .one rd => Sys2Proof.Machine.execOne rd s
  | .max rd => Sys2Proof.Machine.execMax rd s
  | .fromw rd => Sys2Proof.Machine.execFromw rd s
  | .mov rd ra => Sys2Proof.Machine.execMov rd ra s
  | .setl rd idx => Sys2Proof.Machine.execSetl rd idx s
  | .getl ra idx => Sys2Proof.Machine.execGetl ra idx s
  | .add rd ra rb => Sys2Proof.Machine.execAdd rd ra rb s
  | .adds rd ra => Sys2Proof.Machine.execAdds rd ra s
  | .sub rd ra rb => Sys2Proof.Machine.execSub rd ra rb s
  | .subs rd ra => Sys2Proof.Machine.execSubs rd ra s
  | .mul rd ra rb => Sys2Proof.Machine.execMul rd ra rb s
  | .muls rd ra => Sys2Proof.Machine.execMuls rd ra s
  | .div rd ra rb => Sys2Proof.Machine.execDiv rd ra rb s
  | .divs rd ra => Sys2Proof.Machine.execDivs rd ra s
  | .rem rd ra rb => Sys2Proof.Machine.execRem rd ra rb s
  | .rems rd ra => Sys2Proof.Machine.execRems rd ra s
  | .shl rd ra => Sys2Proof.Machine.execShl rd ra s
  | .shr rd ra => Sys2Proof.Machine.execShr rd ra s
  | .and rd ra rb => Sys2Proof.Machine.execAnd rd ra rb s
  | .or rd ra rb => Sys2Proof.Machine.execOr rd ra rb s
  | .xor rd ra rb => Sys2Proof.Machine.execXor rd ra rb s
  | .not rd ra => Sys2Proof.Machine.execNot rd ra s
  | .cmp ra rb => Sys2Proof.Machine.execCmp ra rb s
  | .cmps ra => Sys2Proof.Machine.execCmps ra s
  | .tstf ra f => Sys2Proof.Machine.execTstf ra f s
  | .setf rd f => Sys2Proof.Machine.execSetf rd f s
  | .clrf rd f => Sys2Proof.Machine.execClrf rd f s
  | .clrall rd => Sys2Proof.Machine.execClrall rd s
  | .rdf ra => Sys2Proof.Machine.execRdf ra s

end Sys2Proof.Machine
end

