-- ==== Sys2Proof/Machine/Step.lean ====
section
/-! DEFINITION. One step of the machine (spec/30_encoding.md R79; spec/60_exceptions.md R237, R238;
spec/70_reset_and_hazards.md R260, R268): the host's next input is a reset, which the block always
takes, or a command, which the block accepts and performs completely unless it is halted. -/

namespace Sys2Proof.Machine

/-- One step: from a state and the host's next input to a new state and a response. -/
def step (s : State) : Host.Outcome State Fault Refusal :=
  match s.inputs with
  | .reset :: rest => .next (s.takeReset rest)
  | .command c :: rest =>
    if s.cmdReady then
      match decode c.cmd with
      | none => illegalWord (s.accept c rest)
      | some i => exec i (s.accept c rest)
    else stuck
  | [] => if s.cmdReady then idle s else stuck

/-- `s` with the instruction whose bits are the low `nbits` bits of `w` as the NEXT command the host
presents. The operand ports keep what they last carried: they are no bits of the instruction. A
halted block still accepts nothing: no host can make it (R274). See notes/assumptions/2.md. -/
def State.withFetchWord (s : State) (nbits w : Nat) : State :=
  { s with inputs := .command { s.port with cmd := tableWord nbits w } :: s.inputs }

end Sys2Proof.Machine
end

