-- ==== Sys2Proof/Machine/Reference.lean ====
section
/-! DEFINITION. The limb-level reference algorithms of the spec, each loop as it stands there: ripple
carry (R138) and borrow (R141), schoolbook and single-limb multiplication (R153, R154), restoring and
short division (R165, R166), the limb shifter (R179), the limb-wise logic unit (R190), and the
comparison from the top limb (R203). The meanings use the numeric rules; that the loops compute the
same is stated in the obligations. Lists hold limb 0 first. -/

namespace Sys2Proof.Machine

/-! ### Adder and subtractor -/

/-- The loop of R138 over two limb sequences, from carry `c`: the result limbs and the carry out. -/
def rippleAdd (W : Nat) : Nat → List Nat → List Nat → List Nat × Nat
  | c, a :: as, b :: bs =>
    let t := a + b + c
    let r := rippleAdd W (t / 2 ^ W) as bs
    (t % 2 ^ W :: r.1, r.2)
  | c, _, _ => ([], c)

/-- The single-limb path of R138: `c <- limb_in` and `B` absent; it stops as soon as `c = 0`. -/
def rippleAddLimb (W : Nat) : Nat → List Nat → List Nat × Nat
  | c, a :: as =>
    if c = 0 then (a :: as, 0)
    else
      let t := a + c
      let r := rippleAddLimb W (t / 2 ^ W) as
      (t % 2 ^ W :: r.1, r.2)
  | c, [] => ([], c)

/-- The loop of R141 over two limb sequences, from borrow `bw`. -/
def rippleSub (W : Nat) : Nat → List Nat → List Nat → List Nat × Nat
  | bw, a :: as, b :: bs =>
    let t : Int := (a : Int) - (b : Int) - (bw : Int)
    let r := rippleSub W (if t < 0 then 1 else 0) as bs
    ((t % (2 ^ W : Nat)).toNat :: r.1, r.2)
  | bw, _, _ => ([], bw)

/-- The single-limb path of R141: the limb is the first borrow amount; it stops when `bw = 0`. -/
def rippleSubLimb (W : Nat) : Nat → List Nat → List Nat × Nat
  | bw, a :: as =>
    if bw = 0 then (a :: as, 0)
    else
      let t : Int := (a : Int) - (bw : Int)
      let r := rippleSubLimb W (if t < 0 then 1 else 0) as
      ((t % (2 ^ W : Nat)).toNat :: r.1, r.2)
  | bw, [] => ([], bw)

/-! ### Multiplier -/

/-- The inner loop of R153: `p * B` is added into the working product from the current position,
with carry `c`; the last carry goes to the position after the top limb of `B`. -/
def mulRow (W p : Nat) : Nat → List Nat → List Nat → List Nat
  | c, b :: bs, q :: qs =>
    let t := p * b + q + c
    t % 2 ^ W :: mulRow W p (t / 2 ^ W) bs qs
  | c, [], _ :: qs => c :: qs
  | _, _, [] => []

/-- The outer loop of R153 over the limbs of `A`: each row settles one limb of the product. -/
def mulRows (W : Nat) : List Nat → List Nat → List Nat → List Nat
  | a :: as, bs, ps =>
    match mulRow W a 0 bs ps with
    | r :: rest => r :: mulRows W as bs rest
    | [] => []
  | [], _, ps => ps

/-- R153: the `2N`-limb working product of two `N`-limb sequences. -/
def schoolbook (W N : Nat) (as bs : List Nat) : List Nat :=
  mulRows W as bs (List.replicate (2 * N) 0)

/-- R153: OVERFLOW if an upper limb of the working product is nonzero. -/
def schoolbookOverflow (N : Nat) (ps : List Nat) : Bool := (ps.drop N).any (fun l => l != 0)

/-- The loop of R154, from carry `c`. -/
def mulLimb (W d : Nat) : Nat → List Nat → List Nat × Nat
  | c, a :: as =>
    let t := a * d + c
    let r := mulLimb W d (t / 2 ^ W) as
    (t % 2 ^ W :: r.1, r.2)
  | c, [] => ([], c)

/-! ### Divider -/

/-- The loop of R165 for bits `k-1 .. 0` of the dividend `a`, from quotient `q` and remainder `r`. -/
def restoring (a b : Nat) : Nat → Nat → Nat → Nat × Nat
  | 0, q, r => (q, r)
  | k + 1, q, r =>
    let r' := 2 * r + a / 2 ^ k % 2
    if b ≤ r' then restoring a b k (q + 2 ^ k) (r' - b) else restoring a b k q r'

/-- The loop of R166, from the most significant limb down: the quotient limbs and the remainder. -/
def shortDivide (W d : Nat) : List Nat → List Nat × Nat
  | [] => ([], 0)
  | a :: as =>
    let hi := shortDivide W d as
    let t := hi.2 * 2 ^ W + a
    (t / d :: hi.1, t % d)

/-! ### Shifter -/

/-- `A[i]`, taken as 0 outside `0 .. N-1` (R8, R179). -/
def limbAt (as : List Nat) (i : Int) : Nat := if 0 ≤ i then as.getD i.toNat 0 else 0

/-- One limb of the left shift of R179. -/
def shlLimb (W : Nat) (as : List Nat) (m i : Nat) : Nat :=
  let ls := m / W
  let bs := m % W
  if bs = 0 then limbAt as ((i : Int) - ls)
  else (limbAt as ((i : Int) - ls) * 2 ^ bs % 2 ^ W) |||
    (limbAt as ((i : Int) - ls - 1) / 2 ^ (W - bs))

/-- The left shift of R179. -/
def shlLimbs (W N : Nat) (as : List Nat) (m : Nat) : List Nat :=
  (List.range N).map (shlLimb W as m)

/-- The LEFT_CARRY condition of R179. -/
def shlLimbsCarry (W N : Nat) (as : List Nat) (m : Nat) : Bool :=
  let ls := m / W
  let bs := m % W
  (List.range N).any (fun k => decide (N - ls ≤ k) && limbAt as k != 0) ||
    (decide (0 < bs) && limbAt as ((N : Int) - 1 - ls) / 2 ^ (W - bs) != 0)

/-- One limb of the right shift of R179. -/
def shrLimb (W : Nat) (as : List Nat) (m i : Nat) : Nat :=
  let ls := m / W
  let bs := m % W
  if bs = 0 then limbAt as ((i : Int) + ls)
  else (limbAt as ((i : Int) + ls) / 2 ^ bs) |||
    (limbAt as ((i : Int) + ls + 1) * 2 ^ (W - bs) % 2 ^ W)

/-- The right shift of R179. -/
def shrLimbs (W N : Nat) (as : List Nat) (m : Nat) : List Nat :=
  (List.range N).map (shrLimb W as m)

/-- The RIGHT_CARRY condition of R179. -/
def shrLimbsCarry (W N : Nat) (as : List Nat) (m : Nat) : Bool :=
  let ls := m / W
  let bs := m % W
  (List.range N).any (fun k => decide (k < ls) && limbAt as k != 0) ||
    (decide (0 < bs) && limbAt as ls % 2 ^ bs != 0)

/-! ### Logic unit -/

/-- `R[i] = A[i] & B[i]` (R190). -/
def andLimbs (as bs : List Nat) : List Nat := List.zipWith (fun a b => a &&& b) as bs

/-- `R[i] = A[i] | B[i]` (R190). -/
def orLimbs (as bs : List Nat) : List Nat := List.zipWith (fun a b => a ||| b) as bs

/-- `R[i] = A[i] ^ B[i]` (R190). -/
def xorLimbs (as bs : List Nat) : List Nat := List.zipWith (fun a b => a ^^^ b) as bs

/-- `R[i] = ~_W A[i]` (R190). -/
def notLimbs (W : Nat) (as : List Nat) : List Nat := as.map (fun a => 2 ^ W - 1 - a)

/-! ### Comparator -/

/-- The loop of R203 on sequences that hold the MOST significant limb first. -/
def compareDown : List Nat → List Nat → Nat
  | a :: as, b :: bs => if a < b then 2 else if b < a then 4 else compareDown as bs
  | _, _ => 1

/-- R203: "compared limb-wise from most to least significant limb, first difference decides". -/
def compareLimbs (as bs : List Nat) : Nat := compareDown as.reverse bs.reverse

end Sys2Proof.Machine
end

