-- ==== Sys2Proof/Safety.lean ====
section
/-! DEFINITION. The terms claims are made in: when a state is well formed (the invariants of
spec/10_state.md), when a run has ended or gone wrong (R269, R237), which registers and ports each
command reads and writes (the tables of R22, R72, R73, R233), which flags it can newly set (R27),
and what it means that a command writes a value, answers, or faults. -/

namespace Sys2Proof.Machine

/-! ### Well-formed states -/

/-- `len(limbs) == N` and every limb in `0 .. 2^W - 1` (R8, R21). -/
def limbsWf (c : Config) (ls : List Nat) : Bool :=
  decide (ls.length = c.N) && ls.all (fun l => decide (l < 2 ^ c.W))

/-- The invariant of R32: `halted = 0` if and only if `cause = 0`; when `halted = 0`, `fcmd = 0`. -/
def Status.wf (st : Status) : Bool :=
  if st.halted then decide (st.cause ≠ .noFault)
  else decide (st.cause = .noFault) && decide (st.fcmd = 0)

/-- A response is a `W`-bit number, and 0 when the command faulted (R78). -/
def Response.wf (c : Config) (r : Response) : Bool :=
  decide (r.data < 2 ^ c.W) && (!r.fault || decide (r.data = 0))

/-- A well-formed state: legal parameters (R4), every register a limb sequence (R21), `STATUS` within
its invariant (R32), every response a `W`-bit one (R78). -/
def State.wf (s : State) : Bool :=
  s.cfg.wf && (s.regs.toList.all fun r => limbsWf s.cfg r.limbs) && s.status.wf &&
    s.responses.all (Response.wf s.cfg)

/-! ### Runs -/

/-- A run has ended: the last command's response is given and `halted = 0` (R269). R269 speaks of a
command list, which holds no resets. DESIGN CHOICE (notes/assumptions/12.md): a run that faulted and
was then reset, and whose inputs are used up, counts as ended too. -/
def State.ended (s : State) : Prop := s.inputs = [] ∧ s.status.halted = false

/-- A run has gone wrong: "it is stuck in the halted state" (R269). DESIGN CHOICE
(notes/assumptions/12.md): this is said of the present state, so a later reset ends it. -/
def State.goneWrong (s : State) : Prop := s.status.halted = true

end Sys2Proof.Machine

namespace Sys2Proof
open Machine

/-! ### What each command reads and writes -/

/-- The registers whose constructed bit a command checks (R233), which are the ones it reads. -/
def Instr.reads : Instr → List Reg
  | .zero _ | .one _ | .max _ | .fromw _ => []
  | .mov _ ra | .getl ra _ | .adds _ ra | .subs _ ra | .muls _ ra | .divs _ ra | .rems _ ra
  | .shl _ ra | .shr _ ra | .not _ ra | .cmps ra | .tstf ra _ | .rdf ra => [ra]
  | .add _ ra rb | .sub _ ra rb | .mul _ ra rb | .div _ ra rb | .rem _ ra rb
  | .and _ ra rb | .or _ ra rb | .xor _ ra rb | .cmp ra rb => [ra, rb]
  | .setl rd _ | .setf rd _ | .clrf rd _ | .clrall rd => [rd]

/-- The register a command writes, whole or in part (the table under R22). -/
def Instr.writesTo : Instr → Option Reg
  | .zero rd | .one rd | .max rd | .fromw rd | .mov rd _ | .setl rd _
  | .add rd _ _ | .sub rd _ _ | .mul rd _ _ | .div rd _ _ | .rem rd _ _
  | .and rd _ _ | .or rd _ _ | .xor rd _ _
  | .adds rd _ | .subs rd _ | .muls rd _ | .divs rd _ | .rems rd _
  | .shl rd _ | .shr rd _ | .not rd _ | .setf rd _ | .clrf rd _ | .clrall rd => some rd
  | .getl _ _ | .cmp _ _ | .cmps _ | .tstf _ _ | .rdf _ => none

/-- The explicit resets (R25(b)). -/
def Instr.resetsFlags : Instr → Bool
  | .clrf _ _ | .clrall _ => true
  | .zero _ | .one _ | .max _ | .fromw _ | .mov _ _ | .setl _ _ | .getl _ _
  | .add _ _ _ | .adds _ _ | .sub _ _ _ | .subs _ _ | .mul _ _ _ | .muls _ _
  | .div _ _ _ | .divs _ _ | .rem _ _ _ | .rems _ _ | .shl _ _ | .shr _ _
  | .and _ _ _ | .or _ _ _ | .xor _ _ _ | .not _ _ | .cmp _ _ | .cmps _
  | .tstf _ _ | .setf _ _ | .rdf _ => false

/-- The commands that return the flags to the host (R29). -/
def Instr.returnsFlags : Instr → Bool
  | .tstf _ _ | .rdf _ => true
  | .zero _ | .one _ | .max _ | .fromw _ | .mov _ _ | .setl _ _ | .getl _ _
  | .add _ _ _ | .adds _ _ | .sub _ _ _ | .subs _ _ | .mul _ _ _ | .muls _ _
  | .div _ _ _ | .divs _ _ | .rem _ _ _ | .rems _ _ | .shl _ _ | .shr _ _
  | .and _ _ _ | .or _ _ _ | .xor _ _ _ | .not _ _ | .cmp _ _ | .cmps _
  | .setf _ _ | .clrf _ _ | .clrall _ => false

/-- The five commands that return data (R78). -/
def Instr.returnsData : Instr → Bool
  | .getl _ _ | .cmp _ _ | .cmps _ | .tstf _ _ | .rdf _ => true
  | .zero _ | .one _ | .max _ | .fromw _ | .mov _ _ | .setl _ _
  | .add _ _ _ | .adds _ _ | .sub _ _ _ | .subs _ _ | .mul _ _ _ | .muls _ _
  | .div _ _ _ | .divs _ _ | .rem _ _ _ | .rems _ _ | .shl _ _ | .shr _ _
  | .and _ _ _ | .or _ _ _ | .xor _ _ _ | .not _ _
  | .setf _ _ | .clrf _ _ | .clrall _ => false

/-- The commands that use port `limb_in` (R72). -/
def Instr.usesLimbIn : Instr → Bool
  | .fromw _ | .setl _ _ | .adds _ _ | .subs _ _ | .muls _ _ | .divs _ _ | .rems _ _ | .cmps _ => true
  | .zero _ | .one _ | .max _ | .mov _ _ | .getl _ _ | .add _ _ _ | .sub _ _ _ | .mul _ _ _
  | .div _ _ _ | .rem _ _ _ | .shl _ _ | .shr _ _ | .and _ _ _ | .or _ _ _ | .xor _ _ _ | .not _ _
  | .cmp _ _ | .tstf _ _ | .setf _ _ | .clrf _ _ | .clrall _ | .rdf _ => false

/-- The commands that use port `amt_in` (R73). -/
def Instr.usesAmtIn : Instr → Bool
  | .shl _ _ | .shr _ _ => true
  | .zero _ | .one _ | .max _ | .fromw _ | .mov _ _ | .setl _ _ | .getl _ _
  | .add _ _ _ | .adds _ _ | .sub _ _ _ | .subs _ _ | .mul _ _ _ | .muls _ _
  | .div _ _ _ | .divs _ _ | .rem _ _ _ | .rems _ _
  | .and _ _ _ | .or _ _ _ | .xor _ _ _ | .not _ _ | .cmp _ _ | .cmps _
  | .tstf _ _ | .setf _ _ | .clrf _ _ | .clrall _ | .rdf _ => false

/-- Which flags a command can newly set (the table of R27). -/
def Instr.canSet (i : Instr) (f : Flag) : Bool :=
  match i with
  | .add _ _ _ | .adds _ _ | .mul _ _ _ | .muls _ _ => decide (f = .overflow)
  | .sub _ _ _ | .subs _ _ => decide (f = .underflow)
  | .shl _ _ | .shr _ _ => decide (f = .leftCarry ∨ f = .rightCarry)
  | .setf _ k => decide (f.index = k)
  | .zero _ | .one _ | .max _ | .fromw _ | .mov _ _ | .setl _ _ | .getl _ _
  | .div _ _ _ | .divs _ _ | .rem _ _ _ | .rems _ _
  | .and _ _ _ | .or _ _ _ | .xor _ _ _ | .not _ _ | .cmp _ _ | .cmps _
  | .tstf _ _ | .clrf _ _ | .clrall _ | .rdf _ => false

/-! ### The conditions of the four faults -/

/-- Step 2 of R238: `idx >= N` for SETL and GETL, `f = 7` for TSTF, SETF and CLRF (R232). -/
def Instr.outOfRange (i : Instr) (n : Nat) : Bool :=
  match i with
  | .setl _ idx | .getl _ idx => decide (n ≤ idx)
  | .tstf _ f | .setf _ f | .clrf _ f => decide (f = 7)
  | .zero _ | .one _ | .max _ | .fromw _ | .mov _ _
  | .add _ _ _ | .adds _ _ | .sub _ _ _ | .subs _ _ | .mul _ _ _ | .muls _ _
  | .div _ _ _ | .divs _ _ | .rem _ _ _ | .rems _ _ | .shl _ _ | .shr _ _
  | .and _ _ _ | .or _ _ _ | .xor _ _ _ | .not _ _ | .cmp _ _ | .cmps _
  | .clrall _ | .rdf _ => false

/-- Step 4 of R238: the divisor of DIV and REM, or of DIVS and REMS, is zero (R234). -/
def Instr.zeroDivisor (i : Instr) (s : State) : Bool :=
  match i with
  | .div _ _ rb | .rem _ _ rb => decide (s.value rb = 0)
  | .divs _ _ | .rems _ _ => decide (s.limbIn = 0)
  | .zero _ | .one _ | .max _ | .fromw _ | .mov _ _ | .setl _ _ | .getl _ _
  | .add _ _ _ | .adds _ _ | .sub _ _ _ | .subs _ _ | .mul _ _ _ | .muls _ _
  | .shl _ _ | .shr _ _
  | .and _ _ _ | .or _ _ _ | .xor _ _ _ | .not _ _ | .cmp _ _ | .cmps _
  | .tstf _ _ | .setf _ _ | .clrf _ _ | .clrall _ | .rdf _ => false

/-- The one cause a legal command reports, in the fixed order of R238; `noFault` if it completes. -/
def Instr.causeIn (i : Instr) (s : State) : Cause :=
  if i.outOfRange s.N then .operandRange
  else if i.reads.any (fun r => !s.constructed r) then .unconstructed
  else if i.zeroDivisor s then .divideByZero
  else .noFault

end Sys2Proof

namespace Sys2Proof.Machine

/-! ### What a command does, as a statement says it -/

/-- The word with these fields is the command `i`:
`op * 2^24 + rd * 2^20 + ra * 2^16 + rb * 2^12 + idx` (R75). -/
def Spells (op rd ra rb idx : Nat) (i : Instr) : Prop :=
  decode (BitVec.ofNat 32 (op * 2 ^ 24 + rd * 2 ^ 20 + ra * 2 ^ 16 + rb * 2 ^ 12 + idx)) = some i

/-- Nothing but the value registers and the responses differs. -/
def State.sameControl (s t : State) : Prop :=
  t.cfg = s.cfg ∧ t.status = s.status ∧ t.port = s.port ∧ t.inputs = s.inputs

/-- Every value register is as before: `v`, limbs and flags. -/
def State.regsKept (s t : State) : Prop := ∀ r : Reg, t.reg r = s.reg r

/-- Every value register but `rd` is as before. -/
def State.othersKept (s t : State) (rd : Reg) : Prop := ∀ r : Reg, r ≠ rd → t.reg r = s.reg r

/-- `i` completes in `s`, writes the number `x` with flags `fl` to `rd` as a full value of `N` limbs,
responds `(0, 0)`, and changes nothing else. -/
def WritesValue (i : Instr) (s : State) (rd : Reg) (x : Nat) (fl : Flags) : Prop :=
  ∃ t : State, exec i s = .next t ∧
    t.constructed rd = true ∧ t.value rd = x ∧ t.flags rd = fl ∧
    limbsWf s.cfg (t.reg rd).limbs = true ∧
    s.othersKept t rd ∧ s.sameControl t ∧
    t.responses = { fault := false, data := 0 } :: s.responses

/-- `i` completes in `s`, sets the flags of `rd` to `fl`, leaves its limbs and constructed bit,
responds `(0, 0)`, and changes nothing else. -/
def WritesFlags (i : Instr) (s : State) (rd : Reg) (fl : Flags) : Prop :=
  ∃ t : State, exec i s = .next t ∧
    t.reg rd = { s.reg rd with flags := fl } ∧
    s.othersKept t rd ∧ s.sameControl t ∧
    t.responses = { fault := false, data := 0 } :: s.responses

/-- `i` completes in `s`, responds `(0, d)`, and changes nothing else. -/
def AnswersData (i : Instr) (s : State) (d : Nat) : Prop :=
  ∃ t : State, exec i s = .next t ∧ s.regsKept t ∧ s.sameControl t ∧
    t.responses = { fault := false, data := d } :: s.responses

/-- `i` takes the fault `c` in `s` (R236): no value register is written, `STATUS` records the fault
and the accepted word, and the response is `(1, 0)`. -/
def FaultsWith (i : Instr) (s : State) (c : Cause) : Prop :=
  ∃ t : State, exec i s = .next t ∧ s.regsKept t ∧
    t.status = { halted := true, cause := c, fcmd := s.port.cmd } ∧
    t.responses = { fault := true, data := 0 } :: s.responses ∧
    t.cfg = s.cfg ∧ t.port = s.port ∧ t.inputs = s.inputs

/-! ### Relations between two states -/

/-- The two states differ at most in the flags of value registers and in the responses given. -/
def State.sameButFlags (s s' : State) : Prop :=
  s.sameControl s' ∧
    ∀ r : Reg, s'.constructed r = s.constructed r ∧ (s'.reg r).limbs = (s.reg r).limbs

/-- The two states differ at most in the limbs and flags of registers that hold no value (R41). -/
def State.sameValues (s s' : State) : Prop :=
  s.sameControl s' ∧ s'.responses = s.responses ∧
    ∀ r : Reg, s'.constructed r = s.constructed r ∧ (s.constructed r = true → s'.reg r = s.reg r)

/-- The state with other contents of port `limb_in`. -/
def State.withLimbIn (s : State) (l : Nat) : State := { s with port := { s.port with limbIn := l } }

/-- The state with other contents of port `amt_in`. -/
def State.withAmtIn (s : State) (a : Amount) : State := { s with port := { s.port with amtIn := a } }

end Sys2Proof.Machine
end

