-- ==== Sys2Proof/Certificates/Slice0/Obligations.lean ====
section
/-! DEFINITION. The statements about the model, one `def Obligations.<Name> : Prop` each, from the
numbered rules of spec/. They are stated for every configuration `W`, `N` (a field of the state) and
for every state that meets their hypotheses; nothing is stated about a program. -/

open Sys2Proof Sys2Proof.Machine

/-! ### Encoding -/

/-- Words written out from R75 and R80, one or more of each family (spec/95_test_vectors.md,
Decoding), and illegal words of each kind of R81. -/
def Obligations.SpelledWordsDecode : Prop :=
  decode 0x01300000#32 = some (.zero 3) ∧ decode 0x04200000#32 = some (.fromw 2) ∧
  decode 0x05100000#32 = some (.mov 1 0) ∧ decode 0x06F00FFF#32 = some (.setl 15 4095) ∧
  decode 0x07000001#32 = some (.getl 0 1) ∧ decode 0x10201000#32 = some (.add 2 0 1) ∧
  decode 0x13100000#32 = some (.subs 1 0) ∧ decode 0x21100000#32 = some (.muls 1 0) ∧
  decode 0x32201000#32 = some (.rem 2 0 1) ∧ decode 0x40100000#32 = some (.shl 1 0) ∧
  decode 0x41FF0000#32 = some (.shr 15 15) ∧ decode 0x53100000#32 = some (.not 1 0) ∧
  decode 0x60001000#32 = some (.cmp 0 1) ∧ decode 0x70000006#32 = some (.tstf 0 6) ∧
  decode 0x70000007#32 = some (.tstf 0 7) ∧ decode 0x71100004#32 = some (.setf 1 4) ∧
  decode 0x74020000#32 = some (.rdf 2) ∧
  decode 0x00000000#32 = none ∧ decode 0xFFFFFFFF#32 = none ∧ decode 0x10201001#32 = none ∧
  decode 0x06010000#32 = none ∧ decode 0x70000008#32 = none ∧ decode 0x75000000#32 = none

/-- Every well-formed command is the one its own word spells: no bit of an encoding is dropped. -/
def Obligations.DecodeOfEncode : Prop :=
  ∀ i : Instr, i.wf = true → decode (encode i) = some i

/-- A legal word is the word of exactly the command it decodes to, which is well formed. -/
def Obligations.EncodeOfDecode : Prop :=
  ∀ (w : CmdWord) (i : Instr), decode w = some i → i.wf = true ∧ encode i = w

/-- R77 against the opcode map as spec/opcode_table.json lists it (opcode, mask): a word is legal
exactly when some row's opcode is `w[31:24]` and `w & mask = op * 2^24`. -/
def Obligations.LegalWordsMatchTheTable : Prop :=
  ∀ w : CmdWord, (decode w).isSome = true ↔
    ∃ row ∈ ([(0x01, 0xFF0FFFFF#32), (0x02, 0xFF0FFFFF#32), (0x03, 0xFF0FFFFF#32),
        (0x04, 0xFF0FFFFF#32), (0x05, 0xFF00FFFF#32), (0x06, 0xFF0FF000#32),
        (0x07, 0xFFF0F000#32), (0x10, 0xFF000FFF#32), (0x11, 0xFF00FFFF#32),
        (0x12, 0xFF000FFF#32), (0x13, 0xFF00FFFF#32), (0x20, 0xFF000FFF#32),
        (0x21, 0xFF00FFFF#32), (0x30, 0xFF000FFF#32), (0x31, 0xFF00FFFF#32),
        (0x32, 0xFF000FFF#32), (0x33, 0xFF00FFFF#32), (0x40, 0xFF00FFFF#32),
        (0x41, 0xFF00FFFF#32), (0x50, 0xFF000FFF#32), (0x51, 0xFF000FFF#32),
        (0x52, 0xFF000FFF#32), (0x53, 0xFF00FFFF#32), (0x60, 0xFFF00FFF#32),
        (0x61, 0xFFF0FFFF#32), (0x70, 0xFFF0FFF8#32), (0x71, 0xFF0FFFF8#32),
        (0x72, 0xFF0FFFF8#32), (0x73, 0xFF0FFFFF#32), (0x74, 0xFFF0FFFF#32)] :
          List (Nat × CmdWord)),
      w.toNat / 2 ^ 24 = row.1 ∧ w &&& row.2 = BitVec.ofNat 32 (row.1 * 2 ^ 24)

/-! ### Constructing, copying and limb access -/

/-- R101 to R104 with R100: the four constructors, in every well-formed state, whatever `rd` held. -/
def Obligations.ConstructorCommands : Prop :=
  (∀ rd : Reg, Spells 0x01 rd 0 0 0 (.zero rd) ∧ Spells 0x02 rd 0 0 0 (.one rd) ∧
    Spells 0x03 rd 0 0 0 (.max rd) ∧ Spells 0x04 rd 0 0 0 (.fromw rd)) ∧
  ∀ (s : State) (rd : Reg), s.wf = true →
    WritesValue (.zero rd) s rd 0 0#7 ∧
    WritesValue (.one rd) s rd 1 0#7 ∧
    WritesValue (.max rd) s rd (2 ^ s.T - 1) 0#7 ∧
    WritesValue (.fromw rd) s rd s.limbIn 0#7

/-- R105: the copy takes limbs, flags and the constructed bit; `rd = ra` changes nothing. -/
def Obligations.MovCommand : Prop :=
  (∀ rd ra : Reg, Spells 0x05 rd ra 0 0 (.mov rd ra)) ∧
  ∀ (s : State) (rd ra : Reg), s.wf = true →
    (s.constructed ra = true →
      ∃ t : State, exec (.mov rd ra) s = .next t ∧ t.reg rd = s.reg ra ∧
        s.othersKept t rd ∧ s.sameControl t ∧
        t.responses = { fault := false, data := 0 } :: s.responses) ∧
    (s.constructed ra = false → FaultsWith (.mov rd ra) s .unconstructed)

/-- R106: one limb of `rd` is written; the other limbs, the flags and `v` are unchanged. -/
def Obligations.SetlCommand : Prop :=
  (∀ (rd : Reg) (idx : Nat), idx < 4096 → Spells 0x06 rd 0 0 idx (.setl rd idx)) ∧
  ∀ (s : State) (rd : Reg) (idx : Nat), s.wf = true →
    (s.N ≤ idx → FaultsWith (.setl rd idx) s .operandRange) ∧
    (idx < s.N → s.constructed rd = false → FaultsWith (.setl rd idx) s .unconstructed) ∧
    (idx < s.N → s.constructed rd = true →
      ∃ t : State, exec (.setl rd idx) s = .next t ∧
        t.constructed rd = true ∧ t.flags rd = s.flags rd ∧
        (t.reg rd).limbs.length = s.N ∧ (t.reg rd).limbs[idx]? = some s.limbIn ∧
        (∀ k : Nat, k ≠ idx → (t.reg rd).limbs[k]? = (s.reg rd).limbs[k]?) ∧
        s.othersKept t rd ∧ s.sameControl t ∧
        t.responses = { fault := false, data := 0 } :: s.responses)

/-- R107: the limb at `idx` is the response; no state changes. -/
def Obligations.GetlCommand : Prop :=
  (∀ (ra : Reg) (idx : Nat), idx < 4096 → Spells 0x07 0 ra 0 idx (.getl ra idx)) ∧
  ∀ (s : State) (ra : Reg) (idx : Nat), s.wf = true →
    (s.N ≤ idx → FaultsWith (.getl ra idx) s .operandRange) ∧
    (idx < s.N → s.constructed ra = false → FaultsWith (.getl ra idx) s .unconstructed) ∧
    (idx < s.N → s.constructed ra = true →
      ∃ d : Nat, (s.reg ra).limbs[idx]? = some d ∧ AnswersData (.getl ra idx) s d)

/-! ### Adder and subtractor -/

/-- R136: the wrapped sum, OVERFLOW newly set exactly when the exact sum is `>= 2^T`. -/
def Obligations.AddCommand : Prop :=
  (∀ rd ra rb : Reg, Spells 0x10 rd ra rb 0 (.add rd ra rb)) ∧
  ∀ (s : State) (rd ra rb : Reg),
    (s.constructed ra = true → s.constructed rb = true →
      WritesValue (.add rd ra rb) s rd ((s.value ra + s.value rb) % 2 ^ s.T)
        (s.flags ra ||| s.flags rb |||
          (if 2 ^ s.T ≤ s.value ra + s.value rb then 0x01#7 else 0#7))) ∧
    (s.constructed ra = false ∨ s.constructed rb = false →
      FaultsWith (.add rd ra rb) s .unconstructed)

/-- R137: ADDS; the limb is zero-extended and has no flags. -/
def Obligations.AddsCommand : Prop :=
  (∀ rd ra : Reg, Spells 0x11 rd ra 0 0 (.adds rd ra)) ∧
  ∀ (s : State) (rd ra : Reg),
    (s.constructed ra = true →
      WritesValue (.adds rd ra) s rd ((s.value ra + s.limbIn) % 2 ^ s.T)
        (s.flags ra ||| (if 2 ^ s.T ≤ s.value ra + s.limbIn then 0x01#7 else 0#7))) ∧
    (s.constructed ra = false → FaultsWith (.adds rd ra) s .unconstructed)

/-- R139: `2^T + a - b` with UNDERFLOW newly set when `a < b`, else `a - b`. -/
def Obligations.SubCommand : Prop :=
  (∀ rd ra rb : Reg, Spells 0x12 rd ra rb 0 (.sub rd ra rb)) ∧
  ∀ (s : State) (rd ra rb : Reg), s.wf = true →
    (s.constructed ra = true → s.constructed rb = true →
      (s.value rb ≤ s.value ra →
        WritesValue (.sub rd ra rb) s rd (s.value ra - s.value rb) (s.flags ra ||| s.flags rb)) ∧
      (s.value ra < s.value rb →
        WritesValue (.sub rd ra rb) s rd (2 ^ s.T + s.value ra - s.value rb)
          (s.flags ra ||| s.flags rb ||| 0x02#7))) ∧
    (s.constructed ra = false ∨ s.constructed rb = false →
      FaultsWith (.sub rd ra rb) s .unconstructed)

/-- R140: SUBS, as SUB with a limb for the subtrahend. -/
def Obligations.SubsCommand : Prop :=
  (∀ rd ra : Reg, Spells 0x13 rd ra 0 0 (.subs rd ra)) ∧
  ∀ (s : State) (rd ra : Reg), s.wf = true →
    (s.constructed ra = true →
      (s.limbIn ≤ s.value ra →
        WritesValue (.subs rd ra) s rd (s.value ra - s.limbIn) (s.flags ra)) ∧
      (s.value ra < s.limbIn →
        WritesValue (.subs rd ra) s rd (2 ^ s.T + s.value ra - s.limbIn)
          (s.flags ra ||| 0x02#7))) ∧
    (s.constructed ra = false → FaultsWith (.subs rd ra) s .unconstructed)

/-! ### Multiplier -/

/-- R151: the low `T` bits of the product, OVERFLOW newly set exactly when the product is `>= 2^T`. -/
def Obligations.MulCommand : Prop :=
  (∀ rd ra rb : Reg, Spells 0x20 rd ra rb 0 (.mul rd ra rb)) ∧
  ∀ (s : State) (rd ra rb : Reg),
    (s.constructed ra = true → s.constructed rb = true →
      WritesValue (.mul rd ra rb) s rd (s.value ra * s.value rb % 2 ^ s.T)
        (s.flags ra ||| s.flags rb |||
          (if 2 ^ s.T ≤ s.value ra * s.value rb then 0x01#7 else 0#7))) ∧
    (s.constructed ra = false ∨ s.constructed rb = false →
      FaultsWith (.mul rd ra rb) s .unconstructed)

/-- R152: MULS. -/
def Obligations.MulsCommand : Prop :=
  (∀ rd ra : Reg, Spells 0x21 rd ra 0 0 (.muls rd ra)) ∧
  ∀ (s : State) (rd ra : Reg),
    (s.constructed ra = true →
      WritesValue (.muls rd ra) s rd (s.value ra * s.limbIn % 2 ^ s.T)
        (s.flags ra ||| (if 2 ^ s.T ≤ s.value ra * s.limbIn then 0x01#7 else 0#7))) ∧
    (s.constructed ra = false → FaultsWith (.muls rd ra) s .unconstructed)

/-! ### Divider -/

/-- R161 with R168: the quotient, no flag newly set; a zero divisor faults after the constructed
check. -/
def Obligations.DivCommand : Prop :=
  (∀ rd ra rb : Reg, Spells 0x30 rd ra rb 0 (.div rd ra rb)) ∧
  ∀ (s : State) (rd ra rb : Reg), s.wf = true →
    (s.constructed ra = false ∨ s.constructed rb = false →
      FaultsWith (.div rd ra rb) s .unconstructed) ∧
    (s.constructed ra = true → s.constructed rb = true → s.value rb = 0 →
      FaultsWith (.div rd ra rb) s .divideByZero) ∧
    (s.constructed ra = true → s.constructed rb = true → s.value rb ≠ 0 →
      WritesValue (.div rd ra rb) s rd (s.value ra / s.value rb) (s.flags ra ||| s.flags rb))

/-- R162: DIVS. -/
def Obligations.DivsCommand : Prop :=
  (∀ rd ra : Reg, Spells 0x31 rd ra 0 0 (.divs rd ra)) ∧
  ∀ (s : State) (rd ra : Reg), s.wf = true →
    (s.constructed ra = false → FaultsWith (.divs rd ra) s .unconstructed) ∧
    (s.constructed ra = true → s.limbIn = 0 → FaultsWith (.divs rd ra) s .divideByZero) ∧
    (s.constructed ra = true → s.limbIn ≠ 0 →
      WritesValue (.divs rd ra) s rd (s.value ra / s.limbIn) (s.flags ra))

/-- R163 with R168: the remainder. -/
def Obligations.RemCommand : Prop :=
  (∀ rd ra rb : Reg, Spells 0x32 rd ra rb 0 (.rem rd ra rb)) ∧
  ∀ (s : State) (rd ra rb : Reg), s.wf = true →
    (s.constructed ra = false ∨ s.constructed rb = false →
      FaultsWith (.rem rd ra rb) s .unconstructed) ∧
    (s.constructed ra = true → s.constructed rb = true → s.value rb = 0 →
      FaultsWith (.rem rd ra rb) s .divideByZero) ∧
    (s.constructed ra = true → s.constructed rb = true → s.value rb ≠ 0 →
      WritesValue (.rem rd ra rb) s rd (s.value ra % s.value rb) (s.flags ra ||| s.flags rb))

/-- R164: REMS, a full value with the dividend's flags. -/
def Obligations.RemsCommand : Prop :=
  (∀ rd ra : Reg, Spells 0x33 rd ra 0 0 (.rems rd ra)) ∧
  ∀ (s : State) (rd ra : Reg), s.wf = true →
    (s.constructed ra = false → FaultsWith (.rems rd ra) s .unconstructed) ∧
    (s.constructed ra = true → s.limbIn = 0 → FaultsWith (.rems rd ra) s .divideByZero) ∧
    (s.constructed ra = true → s.limbIn ≠ 0 →
      WritesValue (.rems rd ra) s rd (s.value ra % s.limbIn) (s.flags ra))

/-! ### Shifter -/

/-- R176 with R175: SHL by the signed amount `n` on `amt_in`. -/
def Obligations.ShlCommand : Prop :=
  (∀ rd ra : Reg, Spells 0x40 rd ra 0 0 (.shl rd ra)) ∧
  ∀ (s : State) (rd ra : Reg), s.wf = true →
    (s.constructed ra = false → FaultsWith (.shl rd ra) s .unconstructed) ∧
    (s.constructed ra = true → ∀ m : Nat,
      (s.port.amtIn.toInt = (m : Int) → m < s.T →
        WritesValue (.shl rd ra) s rd (s.value ra * 2 ^ m % 2 ^ s.T)
          (s.flags ra ||| (if 2 ^ s.T ≤ s.value ra * 2 ^ m then 0x20#7 else 0#7))) ∧
      (s.port.amtIn.toInt = (m : Int) → s.T ≤ m →
        WritesValue (.shl rd ra) s rd 0 (s.flags ra ||| 0x20#7)) ∧
      (s.port.amtIn.toInt = -(m : Int) → 0 < m → m < s.T →
        WritesValue (.shl rd ra) s rd (s.value ra / 2 ^ m)
          (s.flags ra ||| (if s.value ra % 2 ^ m ≠ 0 then 0x40#7 else 0#7))) ∧
      (s.port.amtIn.toInt = -(m : Int) → s.T ≤ m →
        WritesValue (.shl rd ra) s rd 0 (s.flags ra ||| 0x40#7)))

/-- R177 with R175: SHR by the signed amount `n` on `amt_in`. -/
def Obligations.ShrCommand : Prop :=
  (∀ rd ra : Reg, Spells 0x41 rd ra 0 0 (.shr rd ra)) ∧
  ∀ (s : State) (rd ra : Reg), s.wf = true →
    (s.constructed ra = false → FaultsWith (.shr rd ra) s .unconstructed) ∧
    (s.constructed ra = true → ∀ m : Nat,
      (s.port.amtIn.toInt = (m : Int) → m < s.T →
        WritesValue (.shr rd ra) s rd (s.value ra / 2 ^ m)
          (s.flags ra ||| (if s.value ra % 2 ^ m ≠ 0 then 0x40#7 else 0#7))) ∧
      (s.port.amtIn.toInt = (m : Int) → s.T ≤ m →
        WritesValue (.shr rd ra) s rd 0 (s.flags ra ||| 0x40#7)) ∧
      (s.port.amtIn.toInt = -(m : Int) → 0 < m → m < s.T →
        WritesValue (.shr rd ra) s rd (s.value ra * 2 ^ m % 2 ^ s.T)
          (s.flags ra ||| (if 2 ^ s.T ≤ s.value ra * 2 ^ m then 0x20#7 else 0#7))) ∧
      (s.port.amtIn.toInt = -(m : Int) → s.T ≤ m →
        WritesValue (.shr rd ra) s rd 0 (s.flags ra ||| 0x20#7)))

/-! ### Logic unit -/

/-- R191 to R193: AND, OR, XOR; nothing newly set, nothing cleared. -/
def Obligations.AndOrXorCommands : Prop :=
  (∀ rd ra rb : Reg, Spells 0x50 rd ra rb 0 (.and rd ra rb) ∧
    Spells 0x51 rd ra rb 0 (.or rd ra rb) ∧ Spells 0x52 rd ra rb 0 (.xor rd ra rb)) ∧
  ∀ (s : State) (rd ra rb : Reg), s.wf = true →
    (s.constructed ra = true → s.constructed rb = true →
      WritesValue (.and rd ra rb) s rd (s.value ra &&& s.value rb) (s.flags ra ||| s.flags rb) ∧
      WritesValue (.or rd ra rb) s rd (s.value ra ||| s.value rb) (s.flags ra ||| s.flags rb) ∧
      WritesValue (.xor rd ra rb) s rd (s.value ra ^^^ s.value rb) (s.flags ra ||| s.flags rb)) ∧
    (s.constructed ra = false ∨ s.constructed rb = false →
      FaultsWith (.and rd ra rb) s .unconstructed ∧ FaultsWith (.or rd ra rb) s .unconstructed ∧
      FaultsWith (.xor rd ra rb) s .unconstructed)

/-- R194: NOT, `2^T - 1 - a`. -/
def Obligations.NotCommand : Prop :=
  (∀ rd ra : Reg, Spells 0x53 rd ra 0 0 (.not rd ra)) ∧
  ∀ (s : State) (rd ra : Reg), s.wf = true →
    (s.constructed ra = true →
      WritesValue (.not rd ra) s rd (2 ^ s.T - 1 - s.value ra) (s.flags ra)) ∧
    (s.constructed ra = false → FaultsWith (.not rd ra) s .unconstructed)

/-! ### Comparator -/

/-- R201 with R200: 1 equal, 2 less, 4 greater; no register, flag or status bit is written. -/
def Obligations.CmpCommand : Prop :=
  (∀ ra rb : Reg, Spells 0x60 0 ra rb 0 (.cmp ra rb)) ∧
  ∀ (s : State) (ra rb : Reg),
    (s.constructed ra = true → s.constructed rb = true →
      (s.value ra = s.value rb → AnswersData (.cmp ra rb) s 1) ∧
      (s.value ra < s.value rb → AnswersData (.cmp ra rb) s 2) ∧
      (s.value rb < s.value ra → AnswersData (.cmp ra rb) s 4)) ∧
    (s.constructed ra = false ∨ s.constructed rb = false →
      FaultsWith (.cmp ra rb) s .unconstructed)

/-- R202 with R200: CMPS, the limb compared as the integer it is. -/
def Obligations.CmpsCommand : Prop :=
  (∀ ra : Reg, Spells 0x61 0 ra 0 0 (.cmps ra)) ∧
  ∀ (s : State) (ra : Reg),
    (s.constructed ra = true →
      (s.value ra = s.limbIn → AnswersData (.cmps ra) s 1) ∧
      (s.value ra < s.limbIn → AnswersData (.cmps ra) s 2) ∧
      (s.limbIn < s.value ra → AnswersData (.cmps ra) s 4)) ∧
    (s.constructed ra = false → FaultsWith (.cmps ra) s .unconstructed)

/-! ### Flag commands -/

/-- R121: TSTF responds bit `f`; reading does not clear. -/
def Obligations.TstfCommand : Prop :=
  (∀ (ra : Reg) (f : Nat), f < 8 → Spells 0x70 0 ra 0 f (.tstf ra f)) ∧
  ∀ (s : State) (ra : Reg) (f : Nat),
    (f = 7 → FaultsWith (.tstf ra f) s .operandRange) ∧
    (f < 7 → s.constructed ra = false → FaultsWith (.tstf ra f) s .unconstructed) ∧
    (f < 7 → s.constructed ra = true →
      AnswersData (.tstf ra f) s (if (s.flags ra).getLsbD f then 1 else 0))

/-- R122 and R123: SETF sets bit `f`, CLRF clears it, and the other six flags are unchanged. -/
def Obligations.SetfClrfCommands : Prop :=
  (∀ (rd : Reg) (f : Nat), f < 8 →
    Spells 0x71 rd 0 0 f (.setf rd f) ∧ Spells 0x72 rd 0 0 f (.clrf rd f)) ∧
  ∀ (s : State) (rd : Reg) (f : Nat),
    (f = 7 → FaultsWith (.setf rd f) s .operandRange ∧ FaultsWith (.clrf rd f) s .operandRange) ∧
    (f < 7 → s.constructed rd = false →
      FaultsWith (.setf rd f) s .unconstructed ∧ FaultsWith (.clrf rd f) s .unconstructed) ∧
    (f < 7 → s.constructed rd = true →
      (∃ fl : Flags, WritesFlags (.setf rd f) s rd fl ∧ fl.getLsbD f = true ∧
        ∀ k : Nat, k ≠ f → fl.getLsbD k = (s.flags rd).getLsbD k) ∧
      (∃ fl : Flags, WritesFlags (.clrf rd f) s rd fl ∧ fl.getLsbD f = false ∧
        ∀ k : Nat, k ≠ f → fl.getLsbD k = (s.flags rd).getLsbD k))

/-- R124: CLRALL resets all seven flags of one value register and needs a constructed one. -/
def Obligations.ClrallCommand : Prop :=
  (∀ rd : Reg, Spells 0x73 rd 0 0 0 (.clrall rd)) ∧
  ∀ (s : State) (rd : Reg),
    (s.constructed rd = true → WritesFlags (.clrall rd) s rd 0#7) ∧
    (s.constructed rd = false → FaultsWith (.clrall rd) s .unconstructed)

/-- R125: RDF responds the seven flags, zero-extended. -/
def Obligations.RdfCommand : Prop :=
  (∀ ra : Reg, Spells 0x74 0 ra 0 0 (.rdf ra)) ∧
  ∀ (s : State) (ra : Reg),
    (s.constructed ra = true → AnswersData (.rdf ra) s (s.flags ra).toNat) ∧
    (s.constructed ra = false → FaultsWith (.rdf ra) s .unconstructed)

/-! ### Reset, the step, faults and responses -/

/-- R40, for every configuration, `State.reset`'s among them: after reset no register holds a value
and `STATUS` is zero. Nothing is said of the limbs and flags, which R40 leaves unspecified. -/
def Obligations.ResetHoldsNoValue : Prop :=
  (∀ (c : Config) (r : Reg), (State.resetWith c).constructed r = false) ∧
  (∀ c : Config, (State.resetWith c).status = { halted := false, cause := .noFault, fcmd := 0#32 }) ∧
  (∀ r : Reg, State.reset.constructed r = false) ∧
  State.reset.status = { halted := false, cause := .noFault, fcmd := 0#32 }

/-- R260: a reset is taken from every state, the halted ones too; it gives no response. -/
def Obligations.ResetInputTaken : Prop :=
  ∀ (s : State) (rest : List HostInput), s.inputs = .reset :: rest →
    ∃ t : State, step s = .next t ∧ (∀ r : Reg, t.constructed r = false) ∧
      t.status = { halted := false, cause := .noFault, fcmd := 0#32 } ∧
      t.responses = s.responses ∧ t.inputs = rest ∧ t.cfg = s.cfg

/-- A step performs the command the accepted word decodes to, with the ports as sampled at the
acceptance (R79(a)) and the host gone on to its next input; nothing else is added around `exec`. -/
def Obligations.StepRunsDecodedCommand : Prop :=
  ∀ (s : State) (c : Command) (rest : List HostInput) (i : Instr),
    s.inputs = .command c :: rest → s.status.halted = false → decode c.cmd = some i →
      step s = exec i { s with port := c, inputs := rest }

/-- From R237: a halted block accepts no command and has no step but reset, which leaves that state
and discards every value. Two clauses are the model's choice: that a command at the head of the host's
inputs stops the run whatever stands behind it, a reset included (notes/assumptions/9.md; R274 lets
the host reset at any time), and that a halted block to which the host presents nothing has no idle
step (notes/assumptions/6.md). -/
def Obligations.HaltedBlockOnlyResets : Prop :=
  ∀ s : State, s.status.halted = true →
    s.cmdReady = false ∧
    (∀ (c : Command) (rest : List HostInput), s.inputs = .command c :: rest →
      step s = .fault .halted) ∧
    (s.inputs = [] → step s = .fault .halted) ∧
    (∀ t : State, step s = .next t →
      (∃ rest : List HostInput, s.inputs = .reset :: rest) ∧ t.status.halted = false ∧
        ∀ r : Reg, t.constructed r = false)

/-- R244, "idleness changes no state". That an idle block has a step at all is the model's choice
(notes/assumptions/6.md). -/
def Obligations.IdleBlockUnchanged : Prop :=
  ∀ s : State, s.inputs = [] → s.status.halted = false → step s = .next s

/-- R238 with R231 to R234: of the conditions an accepted command meets, the first in the fixed order
is the one cause reported; a command that meets none leaves `STATUS` alone and responds with
`rsp_fault = 0`. -/
def Obligations.FirstCauseReported : Prop :=
  ∀ (s : State) (c : Command) (rest : List HostInput),
    s.inputs = .command c :: rest → s.status.halted = false →
      ∃ t : State, step s = .next t ∧
        (decode c.cmd = none →
          t.status = { halted := true, cause := .illegalCommand, fcmd := c.cmd }) ∧
        ∀ i : Instr, decode c.cmd = some i →
          (i.causeIn { s with port := c, inputs := rest } = .noFault →
            t.status = s.status ∧
            ∃ d : Nat, t.responses = { fault := false, data := d } :: s.responses) ∧
          (i.causeIn { s with port := c, inputs := rest } ≠ .noFault →
            t.status = { halted := true
                         cause := i.causeIn { s with port := c, inputs := rest }
                         fcmd := c.cmd })

/-- R236: a command that halts the block has written no value register, `STATUS` records the cause of
R238 and the word as accepted, and the response is `rsp_fault = 1`, `rsp_data = 0`. -/
def Obligations.FaultsArePrecise : Prop :=
  ∀ (s t : State) (c : Command) (rest : List HostInput),
    s.inputs = .command c :: rest → s.status.halted = false → step s = .next t →
    t.status.halted = true →
      (∀ r : Reg, t.reg r = s.reg r) ∧ t.status.fcmd = c.cmd ∧ t.status.cause ≠ .noFault ∧
      (decode c.cmd = none → t.status.cause = .illegalCommand) ∧
      (∀ i : Instr, decode c.cmd = some i →
        t.status.cause = i.causeIn { s with port := c, inputs := rest }) ∧
      t.responses = { fault := true, data := 0 } :: s.responses ∧
      t.cfg = s.cfg ∧ t.inputs = rest

/-- R78: every accepted command produces exactly one response; `rsp_fault` says whether it faulted,
and only five commands return data. -/
def Obligations.OneResponsePerCommand : Prop :=
  ∀ (s : State) (c : Command) (rest : List HostInput),
    s.inputs = .command c :: rest → s.status.halted = false →
      ∃ (t : State) (r : Response), step s = .next t ∧ t.responses = r :: s.responses ∧
        t.inputs = rest ∧ (r.fault = true ↔ t.status.halted = true) ∧
        (r.fault = true → r.data = 0) ∧
        ∀ i : Instr, decode c.cmd = some i → i.returnsData = false → r.data = 0

/-! ### Invariants and whole-machine rules -/

/-- The reset state is well formed, for the reference configuration and every legal one. -/
def Obligations.ResetIsWellFormed : Prop :=
  State.reset.wf = true ∧ ∀ c : Config, c.wf = true → (State.resetWith c).wf = true

/-- Every step keeps a state well formed: legal parameters (R4), `len(limbs) == N` with every limb a
`W`-bit number (R21), the invariant of `STATUS` (R32), and `W`-bit responses (R78). -/
def Obligations.StepKeepsWellFormed : Prop :=
  ∀ s t : State, s.wf = true → step s = .next t → t.wf = true

/-- R4: `W` and `N` are "fixed when the block is built and never changed afterwards". -/
def Obligations.ParametersNeverChange : Prop :=
  ∀ s t : State, step s = .next t → t.cfg = s.cfg

/-- R20, R22: a command changes no register but the one it writes, and clears no constructed bit. -/
def Obligations.OnlyTheDestinationChanges : Prop :=
  ∀ (i : Instr) (s t : State), exec i s = .next t →
    (∀ r : Reg, i.writesTo ≠ some r → t.reg r = s.reg r) ∧
    (∀ r : Reg, s.constructed r = true → t.constructed r = true)

/-- R25(b), R126(a): a command that completes, other than CLRF and CLRALL, leaves no flag of a
register it reads out of the register it writes. -/
def Obligations.FlagsNeverCleared : Prop :=
  ∀ (i : Instr) (s t : State) (r rd : Reg), i.causeIn s = .noFault → i.resetsFlags = false →
    exec i s = .next t → r ∈ i.reads → i.writesTo = some rd →
      s.flags r &&& ~~~(t.flags rd) = 0#7

/-- R27, R126(c): a flag of the register a command writes was set in a register it reads, or is one
the command can newly set by the table of R27. -/
def Obligations.FlagsNewlySet : Prop :=
  ∀ (i : Instr) (s t : State) (rd : Reg) (k : Flag), i.causeIn s = .noFault →
    exec i s = .next t → i.writesTo = some rd → (t.flags rd).getLsbD k.index = true →
      i.canSet k = true ∨ ∃ r ∈ i.reads, (s.flags r).getLsbD k.index = true

/-- R28: if no constructed register has INFINITY (or DIVIDED_BY_ZERO, or UNDEFINED) set, no command
but SETF gives a constructed register that flag. -/
def Obligations.ThreeFlagsOnlyBySetf : Prop :=
  ∀ (i : Instr) (s t : State) (k : Flag),
    (k = .infinity ∨ k = .dividedByZero ∨ k = .undefinedFlag) →
    (∀ (rd : Reg) (f : Nat), i ≠ .setf rd f) →
    (∀ r : Reg, s.constructed r = true → (s.flags r).getLsbD k.index = false) →
    exec i s = .next t →
      ∀ r : Reg, t.constructed r = true → (t.flags r).getLsbD k.index = false

/-- R29, R126(d), (e): no command's numeric result, and no fault, depends on any flag. -/
def Obligations.FlagsNeverEnterResults : Prop :=
  ∀ (i : Instr) (s s' t t' : State), s.sameButFlags s' → exec i s = .next t →
    exec i s' = .next t' →
      t.sameButFlags t' ∧
      (i.returnsFlags = false → s'.responses = s.responses → t'.responses = t.responses)

/-- R82: what lies on an operand port that a command does not use changes nothing. -/
def Obligations.UnusedPortsIgnored : Prop :=
  ∀ (i : Instr) (s t : State), exec i s = .next t →
    (∀ l : Nat, i.usesLimbIn = false → exec i (s.withLimbIn l) = .next (t.withLimbIn l)) ∧
    (∀ a : Amount, i.usesAmtIn = false → exec i (s.withAmtIn a) = .next (t.withAmtIn a))

/-- R41: two states that differ only in the limbs and flags of registers that hold no value give the
same responses and the same `STATUS` after any number of steps on any inputs, and stop together. -/
def Obligations.UnconstructedContentsUnobservable : Prop :=
  ∀ (n : Nat) (s s' : State), s.sameValues s' →
    (∀ t : State, Host.Core.run Sys2Proof.core n s = .next t →
      ∃ t' : State, Host.Core.run Sys2Proof.core n s' = .next t' ∧ t.sameValues t') ∧
    (∀ e : Fault, Host.Core.run Sys2Proof.core n s = .fault e →
      Host.Core.run Sys2Proof.core n s' = .fault e)

/-! ### Laws -/

/-- R142: commutativity, the inverse under wraparound, and the identity of the adder, the last two
for the single-limb forms too. -/
def Obligations.AdditionLaws : Prop :=
  (∀ (s : State) (rd ra rb : Reg), exec (.add rd ra rb) s = exec (.add rd rb ra) s) ∧
  (∀ (s t u : State) (rd ra rb : Reg), s.wf = true → rb ≠ rd →
    s.constructed ra = true → s.constructed rb = true →
    exec (.add rd ra rb) s = .next t → exec (.sub rd rd rb) t = .next u →
      u.value rd = s.value ra) ∧
  (∀ (s t u : State) (rd ra : Reg), s.wf = true → s.constructed ra = true →
    exec (.adds rd ra) s = .next t → exec (.subs rd rd) t = .next u →
      u.value rd = s.value ra) ∧
  (∀ (s t : State) (rd ra rb : Reg), s.wf = true →
    s.constructed ra = true → s.constructed rb = true → s.value rb = 0 → s.flags rb = 0#7 →
    exec (.add rd ra rb) s = .next t → t.reg rd = s.reg ra) ∧
  (∀ (s t : State) (rd ra : Reg), s.wf = true → s.constructed ra = true → s.limbIn = 0 →
    exec (.adds rd ra) s = .next t → t.reg rd = s.reg ra)

/-- R167(a): with the block's own commands, `q * b + r` is the dividend, `r < b`, and neither MUL nor
ADD newly sets OVERFLOW on the way. -/
def Obligations.DivisionIdentity : Prop :=
  ∀ (s s₁ s₂ s₃ s₄ : State) (q r p ra rb : Reg), s.wf = true →
    s.constructed ra = true → s.constructed rb = true → s.value rb ≠ 0 →
    q ≠ ra → q ≠ rb → r ≠ q → r ≠ rb → p ≠ r →
    exec (.div q ra rb) s = .next s₁ → exec (.rem r ra rb) s₁ = .next s₂ →
    exec (.mul p q rb) s₂ = .next s₃ → exec (.add p p r) s₃ = .next s₄ →
      s₄.value p = s.value ra ∧ s₂.value r < s.value rb ∧
      s₄.flags p = s.flags ra ||| s.flags rb

/-- R180(a), (b): a shift left then right by `n` keeps the bits that were not carried out, and the
value comes back exactly when the first shift newly set no carry; and the mirror image. -/
def Obligations.ShiftRoundTrip : Prop :=
  ∀ (s t u : State) (rd ra : Reg) (n : Nat), s.wf = true → s.constructed ra = true →
    s.port.amtIn.toInt = (n : Int) → n < s.T →
    (exec (.shl rd ra) s = .next t → exec (.shr rd rd) t = .next u →
      u.value rd = s.value ra % 2 ^ (s.T - n) ∧ u.flags rd = t.flags rd ∧
      ((s.flags ra).getLsbD 5 = false →
        (u.value rd = s.value ra ↔ (t.flags rd).getLsbD 5 = false))) ∧
    (exec (.shr rd ra) s = .next t → exec (.shl rd rd) t = .next u →
      u.value rd = s.value ra - s.value ra % 2 ^ n ∧ u.flags rd = t.flags rd ∧
      ((s.flags ra).getLsbD 6 = false →
        (u.value rd = s.value ra ↔ (t.flags rd).getLsbD 6 = false)))

/-- R177: SHR by `n` and SHL by `-n` write the same limbs and the same flags whenever `-n` is
representable; for `n = -2^31` they write the same limbs, 0, and differ in the carry newly set. -/
def Obligations.ShiftDirectionsMirror : Prop :=
  ∀ (s t u : State) (rd ra : Reg), s.wf = true →
    exec (.shr rd ra) s = .next t →
    (s.port.amtIn ≠ 0x80000000#32 →
      exec (.shl rd ra) (s.withAmtIn (-s.port.amtIn)) = .next u →
        ∀ r : Reg, u.reg r = t.reg r) ∧
    (s.constructed ra = true → s.port.amtIn = 0x80000000#32 →
      exec (.shl rd ra) s = .next u →
        t.value rd = 0 ∧ u.value rd = 0 ∧ t.flags rd = s.flags ra ||| 0x20#7 ∧
        u.flags rd = s.flags ra ||| 0x40#7)

/-- R137, R140, R152, R162, R164, R202: a single-limb form does what the two-register form does with
a second operand of value `limb_in` and no flags. -/
def Obligations.SingleLimbForms : Prop :=
  ∀ (s : State) (rd ra rb : Reg), s.constructed rb = true → s.value rb = s.limbIn →
    s.flags rb = 0#7 →
      exec (.adds rd ra) s = exec (.add rd ra rb) s ∧
      exec (.subs rd ra) s = exec (.sub rd ra rb) s ∧
      exec (.muls rd ra) s = exec (.mul rd ra rb) s ∧
      exec (.divs rd ra) s = exec (.div rd ra rb) s ∧
      exec (.rems rd ra) s = exec (.rem rd ra rb) s ∧
      exec (.cmps ra) s = exec (.cmp ra rb) s

/-! ### The limb-level reference algorithms -/

/-- R138: ADD and ADDS write the limbs of the ripple-carry loop, and newly set OVERFLOW exactly when
its carry out is 1. -/
def Obligations.RippleCarryAdder : Prop :=
  ∀ (s : State) (rd ra rb : Reg), s.wf = true → s.constructed ra = true →
    (s.constructed rb = true →
      ∃ t : State, exec (.add rd ra rb) s = .next t ∧
        (t.reg rd).limbs = (rippleAdd s.W 0 (s.reg ra).limbs (s.reg rb).limbs).1 ∧
        (rippleAdd s.W 0 (s.reg ra).limbs (s.reg rb).limbs).2 ≤ 1 ∧
        t.flags rd = s.flags ra ||| s.flags rb |||
          (if (rippleAdd s.W 0 (s.reg ra).limbs (s.reg rb).limbs).2 = 1 then 0x01#7 else 0#7)) ∧
    (∃ t : State, exec (.adds rd ra) s = .next t ∧
      (t.reg rd).limbs = (rippleAddLimb s.W s.limbIn (s.reg ra).limbs).1 ∧
      (rippleAddLimb s.W s.limbIn (s.reg ra).limbs).2 ≤ 1 ∧
      t.flags rd = s.flags ra |||
        (if (rippleAddLimb s.W s.limbIn (s.reg ra).limbs).2 = 1 then 0x01#7 else 0#7))

/-- R141: SUB and SUBS write the limbs of the ripple-borrow loop, and newly set UNDERFLOW exactly
when its borrow out is 1. -/
def Obligations.RippleBorrowSubtractor : Prop :=
  ∀ (s : State) (rd ra rb : Reg), s.wf = true → s.constructed ra = true →
    (s.constructed rb = true →
      ∃ t : State, exec (.sub rd ra rb) s = .next t ∧
        (t.reg rd).limbs = (rippleSub s.W 0 (s.reg ra).limbs (s.reg rb).limbs).1 ∧
        (rippleSub s.W 0 (s.reg ra).limbs (s.reg rb).limbs).2 ≤ 1 ∧
        t.flags rd = s.flags ra ||| s.flags rb |||
          (if (rippleSub s.W 0 (s.reg ra).limbs (s.reg rb).limbs).2 = 1 then 0x02#7 else 0#7)) ∧
    (∃ t : State, exec (.subs rd ra) s = .next t ∧
      (t.reg rd).limbs = (rippleSubLimb s.W s.limbIn (s.reg ra).limbs).1 ∧
      (rippleSubLimb s.W s.limbIn (s.reg ra).limbs).2 ≤ 1 ∧
      t.flags rd = s.flags ra |||
        (if (rippleSubLimb s.W s.limbIn (s.reg ra).limbs).2 = 1 then 0x02#7 else 0#7))

/-- R153, R154: MUL writes the low `N` limbs of the schoolbook product and newly sets OVERFLOW when
an upper limb is nonzero; MULS the limbs of the single pass, and OVERFLOW when its carry is not 0. -/
def Obligations.SchoolbookMultiplier : Prop :=
  ∀ (s : State) (rd ra rb : Reg), s.wf = true → s.constructed ra = true →
    (s.constructed rb = true →
      ∃ t : State, exec (.mul rd ra rb) s = .next t ∧
        (t.reg rd).limbs = (schoolbook s.W s.N (s.reg ra).limbs (s.reg rb).limbs).take s.N ∧
        t.flags rd = s.flags ra ||| s.flags rb |||
          (if schoolbookOverflow s.N (schoolbook s.W s.N (s.reg ra).limbs (s.reg rb).limbs) = true
            then 0x01#7 else 0#7)) ∧
    (∃ t : State, exec (.muls rd ra) s = .next t ∧
      (t.reg rd).limbs = (mulLimb s.W s.limbIn 0 (s.reg ra).limbs).1 ∧
      t.flags rd = s.flags ra |||
        (if (mulLimb s.W s.limbIn 0 (s.reg ra).limbs).2 ≠ 0 then 0x01#7 else 0#7))

/-- R165, R166: DIV and REM write the quotient and the remainder of the restoring loop over the `T`
bits of the dividend; DIVS the quotient limbs of short division, REMS its remainder. -/
def Obligations.DividerLoops : Prop :=
  ∀ (s : State) (rd ra rb : Reg), s.wf = true → s.constructed ra = true →
    (s.constructed rb = true → s.value rb ≠ 0 →
      (∃ t : State, exec (.div rd ra rb) s = .next t ∧
        t.value rd = (restoring (s.value ra) (s.value rb) s.T 0 0).1) ∧
      (∃ t : State, exec (.rem rd ra rb) s = .next t ∧
        t.value rd = (restoring (s.value ra) (s.value rb) s.T 0 0).2)) ∧
    (s.limbIn ≠ 0 →
      (∃ t : State, exec (.divs rd ra) s = .next t ∧
        (t.reg rd).limbs = (shortDivide s.W s.limbIn (s.reg ra).limbs).1) ∧
      (∃ t : State, exec (.rems rd ra) s = .next t ∧
        t.value rd = (shortDivide s.W s.limbIn (s.reg ra).limbs).2))

/-- R179: for a magnitude below `T` the shifts write the limbs of the limb-level loops and newly set
the carry exactly under the loops' conditions. -/
def Obligations.LimbShifter : Prop :=
  ∀ (s : State) (rd ra : Reg) (m : Nat), s.wf = true → s.constructed ra = true →
    s.port.amtIn.toInt = (m : Int) → m < s.T →
      (∃ t : State, exec (.shl rd ra) s = .next t ∧
        (t.reg rd).limbs = shlLimbs s.W s.N (s.reg ra).limbs m ∧
        t.flags rd = s.flags ra |||
          (if shlLimbsCarry s.W s.N (s.reg ra).limbs m = true then 0x20#7 else 0#7)) ∧
      (∃ t : State, exec (.shr rd ra) s = .next t ∧
        (t.reg rd).limbs = shrLimbs s.W s.N (s.reg ra).limbs m ∧
        t.flags rd = s.flags ra |||
          (if shrLimbsCarry s.W s.N (s.reg ra).limbs m = true then 0x40#7 else 0#7))

/-- R190: the four operations act on each limb separately. -/
def Obligations.LimbwiseLogic : Prop :=
  ∀ (s : State) (rd ra rb : Reg), s.wf = true → s.constructed ra = true →
    (s.constructed rb = true →
      (∃ t : State, exec (.and rd ra rb) s = .next t ∧
        (t.reg rd).limbs = andLimbs (s.reg ra).limbs (s.reg rb).limbs) ∧
      (∃ t : State, exec (.or rd ra rb) s = .next t ∧
        (t.reg rd).limbs = orLimbs (s.reg ra).limbs (s.reg rb).limbs) ∧
      (∃ t : State, exec (.xor rd ra rb) s = .next t ∧
        (t.reg rd).limbs = xorLimbs (s.reg ra).limbs (s.reg rb).limbs)) ∧
    (∃ t : State, exec (.not rd ra) s = .next t ∧
      (t.reg rd).limbs = notLimbs s.W (s.reg ra).limbs)

/-- R203: CMP and CMPS respond the code of the limb-wise comparison from the top, the single limb
zero-extended to `N` limbs. -/
def Obligations.LimbwiseComparator : Prop :=
  ∀ (s : State) (ra rb : Reg), s.wf = true → s.constructed ra = true →
    (s.constructed rb = true →
      AnswersData (.cmp ra rb) s (compareLimbs (s.reg ra).limbs (s.reg rb).limbs)) ∧
    AnswersData (.cmps ra) s
      (compareLimbs (s.reg ra).limbs (s.limbIn :: List.replicate (s.N - 1) 0))
end

