-- ==== Sys2Proof/Laws/Decode.lean ====
section
/-! SUPPORT. The fields of an assembled word (spec/30_encoding.md R75), and the mask test of R77 in
terms of the fields: a word is an instance of a form exactly when every unused field is zero. -/

namespace Sys2Proof

/-! ### Fields of an assembled word -/

theorem assemble_toNat {op idx : Nat} (hop : op < 256) (rd ra rb : Reg) (hidx : idx < 4096) :
    (assemble op rd ra rb idx).toNat =
      op * 2 ^ 24 + rd.val * 2 ^ 20 + ra.val * 2 ^ 16 + rb.val * 2 ^ 12 + idx := by
  unfold assemble
  rw [BitVec.toNat_ofNat, Nat.mod_eq_of_lt]
  omega

theorem opField_assemble {op idx : Nat} (hop : op < 256) (rd ra rb : Reg) (hidx : idx < 4096) :
    opField (assemble op rd ra rb idx) = op := by
  unfold opField field
  rw [assemble_toNat hop rd ra rb hidx]
  omega

theorem rdField_assemble {op idx : Nat} (hop : op < 256) (rd ra rb : Reg) (hidx : idx < 4096) :
    rdField (assemble op rd ra rb idx) = rd := by
  apply Fin.ext
  simp only [rdField, regField, field, Fin.ofNat, assemble_toNat hop rd ra rb hidx]
  omega

theorem raField_assemble {op idx : Nat} (hop : op < 256) (rd ra rb : Reg) (hidx : idx < 4096) :
    raField (assemble op rd ra rb idx) = ra := by
  apply Fin.ext
  simp only [raField, regField, field, Fin.ofNat, assemble_toNat hop rd ra rb hidx]
  omega

theorem rbField_assemble {op idx : Nat} (hop : op < 256) (rd ra rb : Reg) (hidx : idx < 4096) :
    rbField (assemble op rd ra rb idx) = rb := by
  apply Fin.ext
  simp only [rbField, regField, field, Fin.ofNat, assemble_toNat hop rd ra rb hidx]
  omega

theorem idxField_assemble {op idx : Nat} (hop : op < 256) (rd ra rb : Reg) (hidx : idx < 4096) :
    idxField (assemble op rd ra rb idx) = idx := by
  unfold idxField field
  rw [assemble_toNat hop rd ra rb hidx]
  omega

theorem flagField_assemble {op f : Nat} (hop : op < 256) (rd ra rb : Reg) (hf : f < 8) :
    flagField (assemble op rd ra rb f) = f := by
  unfold flagField field
  rw [assemble_toNat hop rd ra rb (by omega)]
  omega

/-- A word is the assembly of its fields (R75). -/
theorem assemble_fields (w : CmdWord) :
    assemble (opField w) (rdField w) (raField w) (rbField w) (idxField w) = w := by
  apply BitVec.eq_of_toNat_eq
  have h := w.isLt
  rw [assemble_toNat (by unfold opField field; omega) _ _ _ (by unfold idxField field; omega)]
  simp only [opField, rdField, raField, rbField, idxField, regField, field, Fin.ofNat]
  omega

/-! ### The mask test -/

/-- A mask of one run of ones: `w & m = 0` says that the run's bits of `w` are zero. -/
theorem and_run_eq_zero (x lo len : Nat) :
    x &&& ((2 ^ len - 1) * 2 ^ lo) = 0 ↔ x / 2 ^ lo % 2 ^ len = 0 := by
  rw [← Nat.and_two_pow_sub_one_eq_mod, ← Nat.shiftRight_eq_div_pow, ← Nat.shiftLeft_eq]
  constructor
  · intro h
    apply Nat.eq_of_testBit_eq
    intro j
    have := congrArg (fun y => y.testBit (lo + j)) h
    simp only [Nat.testBit_and, Nat.testBit_shiftLeft, Nat.testBit_two_pow_sub_one,
      Nat.testBit_shiftRight, Nat.zero_testBit, Nat.le_add_right, decide_true,
      Nat.add_sub_cancel_left, Bool.true_and] at this ⊢
    exact this
  · intro h
    apply Nat.eq_of_testBit_eq
    intro j
    rw [Nat.testBit_and, Nat.testBit_shiftLeft, Nat.zero_testBit]
    by_cases hj : lo ≤ j
    · have := congrArg (fun y => y.testBit (j - lo)) h
      simp only [Nat.testBit_and, Nat.testBit_shiftRight, Nat.zero_testBit] at this
      rw [Nat.add_sub_cancel' hj] at this
      simpa [hj] using this
    · simp [hj]

/-- The opcode byte is always kept by a form's mask, so the mask test of R77 is about the rest. -/
theorem mask_test_iff (w m : CmdWord) (hm : m &&& 0xFF000000#32 = 0) :
    w &&& (0xFF000000#32 ||| m) = BitVec.ofNat 32 (opField w * 2 ^ 24) ↔ w &&& m = 0 := by
  have hop : w &&& 0xFF000000#32 = BitVec.ofNat 32 (opField w * 2 ^ 24) := by
    apply BitVec.eq_of_getLsbD_eq
    intro i hi
    have e : BitVec.ofNat 32 (opField w * 2 ^ 24) = (w >>> 24) <<< 24 := by
      apply BitVec.eq_of_toNat_eq
      have := w.isLt
      simp only [BitVec.toNat_ofNat, BitVec.toNat_shiftLeft, BitVec.toNat_ushiftRight, opField,
        field, Nat.shiftLeft_eq, Nat.shiftRight_eq_div_pow]
      omega
    rw [e]
    have hmask : (0xFF000000#32).getLsbD i = decide (24 ≤ i) := by
      revert i; decide
    simp only [BitVec.getLsbD_and, hmask, BitVec.getLsbD_shiftLeft, BitVec.getLsbD_ushiftRight]
    by_cases h : 24 ≤ i
    · have : 24 + (i - 24) = i := by omega
      simp [h, hi, this]
    · simp [h]
  rw [← hop]
  constructor
  · intro h
    apply BitVec.eq_of_getLsbD_eq
    intro i hi
    have h1 := congrArg (fun b => b.getLsbD i) h
    have h2 := congrArg (fun b => b.getLsbD i) hm
    simp only [BitVec.getLsbD_and, BitVec.getLsbD_or] at h1 h2 ⊢
    cases hw : w.getLsbD i <;> cases hf : (0xFF000000#32).getLsbD i <;>
      cases hmi : m.getLsbD i <;> simp_all
  · intro h
    apply BitVec.eq_of_getLsbD_eq
    intro i hi
    have h1 := congrArg (fun b => b.getLsbD i) h
    simp only [BitVec.getLsbD_and, BitVec.getLsbD_or] at h1 ⊢
    cases hw : w.getLsbD i <;> cases hf : (0xFF000000#32).getLsbD i <;>
      cases hmi : m.getLsbD i <;> simp_all

/-- Every field a form does not use is zero (R76, R81(b)), on the four operand fields. -/
def Form.Unused (fm : Form) (rd ra rb : Reg) (idx : Nat) : Prop :=
  match fm with
  | .D | .DL => ra = 0 ∧ rb = 0 ∧ idx = 0
  | .DA | .DAL | .DAS => rb = 0 ∧ idx = 0
  | .DAB => idx = 0
  | .DXL => ra = 0 ∧ rb = 0
  | .AX => rd = 0 ∧ rb = 0
  | .AB => rd = 0 ∧ idx = 0
  | .AL | .A => rd = 0 ∧ rb = 0 ∧ idx = 0
  | .AF => rd = 0 ∧ rb = 0 ∧ idx < 8
  | .DF => ra = 0 ∧ rb = 0 ∧ idx < 8

/-- Every field of the word that a form does not use is zero. -/
def Form.unusedZero (fm : Form) (w : CmdWord) : Prop :=
  fm.Unused (rdField w) (raField w) (rbField w) (idxField w)

theorem regField_eq_zero (w : CmdWord) (lo : Nat) :
    regField w lo = 0 ↔ w.toNat / 2 ^ lo % 2 ^ 4 = 0 := by
  simp only [regField, field, Fin.ext_iff, Fin.ofNat]
  norm_num

theorem and_eq_zero_iff_toNat (w m : CmdWord) : w &&& m = 0 ↔ w.toNat &&& m.toNat = 0 := by
  rw [← BitVec.toNat_and, ← BitVec.toNat_inj]
  rfl

/-- One run of unused bits. -/
theorem run_test (w : CmdWord) (lo len : Nat) (m : CmdWord) (hm : m.toNat = (2 ^ len - 1) * 2 ^ lo) :
    w &&& m = 0 ↔ w.toNat / 2 ^ lo % 2 ^ len = 0 := by
  rw [and_eq_zero_iff_toNat, hm, and_run_eq_zero]

/-- Two runs of unused bits. -/
theorem two_run_test (w : CmdWord) (lo len lo' len' : Nat) (m : CmdWord)
    (hm : m.toNat = (2 ^ len - 1) * 2 ^ lo ||| (2 ^ len' - 1) * 2 ^ lo') :
    w &&& m = 0 ↔ w.toNat / 2 ^ lo % 2 ^ len = 0 ∧ w.toNat / 2 ^ lo' % 2 ^ len' = 0 := by
  rw [and_eq_zero_iff_toNat, hm, Nat.and_or_distrib_left, ← and_run_eq_zero, ← and_run_eq_zero]
  exact Nat.or_eq_zero_iff

/-- The mask test of R77 says that every field the form does not use is zero (R76, R81(b)). -/
theorem mask_iff_unusedZero (fm : Form) (w : CmdWord) :
    w &&& fm.mask = BitVec.ofNat 32 (opField w * 2 ^ 24) ↔ fm.unusedZero w := by
  cases fm <;>
    simp only [Form.unusedZero, Form.Unused, raField, rbField, rdField, regField_eq_zero, idxField, field]
  case D | DL =>
    rw [show Form.mask _ = 0xFF000000#32 ||| 0xFFFFF#32 from rfl, mask_test_iff _ _ (by decide),
      run_test w 0 20 _ (by decide)]
    omega
  case DA | DAL | DAS =>
    rw [show Form.mask _ = 0xFF000000#32 ||| 0xFFFF#32 from rfl, mask_test_iff _ _ (by decide),
      run_test w 0 16 _ (by decide)]
    omega
  case DAB =>
    rw [show Form.mask _ = 0xFF000000#32 ||| 0xFFF#32 from rfl, mask_test_iff _ _ (by decide),
      run_test w 0 12 _ (by decide)]
  case DXL =>
    rw [show Form.mask _ = 0xFF000000#32 ||| 0xFF000#32 from rfl, mask_test_iff _ _ (by decide),
      run_test w 12 8 _ (by decide)]
    omega
  case AX =>
    rw [show Form.mask _ = 0xFF000000#32 ||| 0xF0F000#32 from rfl, mask_test_iff _ _ (by decide),
      two_run_test w 20 4 12 4 _ (by decide)]
  case AB =>
    rw [show Form.mask _ = 0xFF000000#32 ||| 0xF00FFF#32 from rfl, mask_test_iff _ _ (by decide),
      two_run_test w 20 4 0 12 _ (by decide)]
  case AL | A =>
    rw [show Form.mask _ = 0xFF000000#32 ||| 0xF0FFFF#32 from rfl, mask_test_iff _ _ (by decide),
      two_run_test w 20 4 0 16 _ (by decide)]
    omega
  case AF =>
    rw [show Form.mask _ = 0xFF000000#32 ||| 0xF0FFF8#32 from rfl, mask_test_iff _ _ (by decide),
      two_run_test w 20 4 3 13 _ (by decide)]
    omega
  case DF =>
    rw [show Form.mask _ = 0xFF000000#32 ||| 0x0FFFF8#32 from rfl, mask_test_iff _ _ (by decide),
      run_test w 3 17 _ (by decide)]
    omega

/-- What the second test of the decoder answers, in terms of the fields. -/
theorem ofForm_eq_some {fm : Form} {w : CmdWord} {i j : Instr} :
    ofForm fm w i = some j ↔ fm.unusedZero w ∧ i = j := by
  unfold ofForm
  rw [← mask_iff_unusedZero]
  split <;> simp_all

theorem ofForm_of_unusedZero {fm : Form} {w : CmdWord} (h : fm.unusedZero w) (i : Instr) :
    ofForm fm w i = some i := ofForm_eq_some.2 ⟨h, rfl⟩

theorem Instr.opcode_lt (i : Instr) : i.opcode < 256 := by cases i <;> simp [Instr.opcode]

/-- An assembled word passes the test of its form when the unused fields given to it are zero. -/
theorem assemble_fits {op idx : Nat} {fm : Form} (hop : op < 256) (rd ra rb : Reg)
    (hi : idx < 4096) (h : fm.Unused rd ra rb idx) :
    opField (assemble op rd ra rb idx) = op ∧ fm.unusedZero (assemble op rd ra rb idx) := by
  refine ⟨opField_assemble hop rd ra rb hi, ?_⟩
  unfold Form.unusedZero
  rwa [rdField_assemble hop rd ra rb hi, raField_assemble hop rd ra rb hi,
    rbField_assemble hop rd ra rb hi, idxField_assemble hop rd ra rb hi]

end Sys2Proof
end

