-- ==== Sys2Proof/Laws/Limbs.lean ====
section
/-! SUPPORT. Limb sequences and the numbers they spell (spec/00_scope.md R8): `valOf` and `limbsOf` are
inverse to each other between sequences of `n` limbs below `2^W` and numbers below `2^(W*n)`. -/

namespace Sys2Proof.Machine

@[simp] theorem length_limbsOf (W n x : Nat) : (limbsOf W n x).length = n := by
  induction n generalizing x with
  | zero => rfl
  | succ n ih => simp [limbsOf, ih]

theorem limbsOf_lt (W n x : Nat) : ∀ l ∈ limbsOf W n x, l < 2 ^ W := by
  induction n generalizing x with
  | zero => simp [limbsOf]
  | succ n ih =>
    intro l hl
    rcases List.mem_cons.1 hl with rfl | h
    · exact Nat.mod_lt _ (Nat.two_pow_pos W)
    · exact ih _ l h

/-- What a written number reads back as (R8, R9). -/
theorem valOf_limbsOf (W n x : Nat) : valOf W (limbsOf W n x) = x % 2 ^ (W * n) := by
  induction n generalizing x with
  | zero => simp [limbsOf, valOf, Nat.mod_one]
  | succ n ih =>
    rw [limbsOf, valOf, ih, Nat.mul_succ, Nat.pow_add, Nat.mul_comm (2 ^ (W * n)), Nat.mod_mul]

theorem valOf_limbsOf_of_lt {W n x : Nat} (h : x < 2 ^ (W * n)) :
    valOf W (limbsOf W n x) = x := by
  rw [valOf_limbsOf, Nat.mod_eq_of_lt h]

theorem valOf_lt {W : Nat} {ls : List Nat} (h : ∀ l ∈ ls, l < 2 ^ W) :
    valOf W ls < 2 ^ (W * ls.length) := by
  induction ls with
  | nil => simp [valOf]
  | cons l ls ih =>
    have h1 := h l (by simp)
    have h2 := ih (fun x hx => h x (by simp [hx]))
    rw [valOf, List.length_cons, Nat.mul_succ, Nat.pow_add, Nat.mul_comm (2 ^ (W * ls.length))]
    calc l + 2 ^ W * valOf W ls < 2 ^ W + 2 ^ W * valOf W ls := by omega
      _ = 2 ^ W * (valOf W ls + 1) := by ring
      _ ≤ 2 ^ W * 2 ^ (W * ls.length) := Nat.mul_le_mul_left _ h2

/-- A sequence of limbs is the one that spells its value (R8: inverse bijections). -/
theorem limbsOf_valOf {W : Nat} {ls : List Nat} (h : ∀ l ∈ ls, l < 2 ^ W) :
    limbsOf W ls.length (valOf W ls) = ls := by
  induction ls with
  | nil => rfl
  | cons l ls ih =>
    have h1 := h l (by simp)
    have h2 := ih (fun x hx => h x (by simp [hx]))
    rw [List.length_cons, limbsOf, valOf, Nat.add_mul_mod_self_left, Nat.mod_eq_of_lt h1,
      Nat.add_mul_div_left _ _ (Nat.two_pow_pos W), Nat.div_eq_of_lt h1, Nat.zero_add, h2]

theorem valOf_inj {W : Nat} {as bs : List Nat} (ha : ∀ l ∈ as, l < 2 ^ W)
    (hb : ∀ l ∈ bs, l < 2 ^ W) (hl : as.length = bs.length) (hv : valOf W as = valOf W bs) :
    as = bs := by
  rw [← limbsOf_valOf ha, ← limbsOf_valOf hb, hl, hv]

/-- Limb `i` of a written number is `(x div 2^(W*i)) mod 2^W` (R8). -/
theorem limbsOf_getElem? (W n x i : Nat) :
    (limbsOf W n x)[i]? = if i < n then some (x / 2 ^ (W * i) % 2 ^ W) else none := by
  induction n generalizing x i with
  | zero => simp [limbsOf]
  | succ n ih =>
    cases i with
    | zero => simp [limbsOf]
    | succ i =>
      rw [limbsOf, List.getElem?_cons_succ, ih, Nat.mul_succ, Nat.pow_add,
        Nat.mul_comm (2 ^ (W * i)), ← Nat.div_div_eq_div_mul]
      simp

theorem valOf_append (W : Nat) (as bs : List Nat) :
    valOf W (as ++ bs) = valOf W as + 2 ^ (W * as.length) * valOf W bs := by
  induction as with
  | nil => simp [valOf]
  | cons a as ih =>
    rw [List.cons_append, valOf, ih, valOf, List.length_cons, Nat.mul_succ, Nat.pow_add]
    ring

theorem valOf_replicate_zero (W n : Nat) : valOf W (List.replicate n 0) = 0 := by
  induction n with
  | zero => rfl
  | succ n ih => simp [List.replicate_succ, valOf, ih]

end Sys2Proof.Machine
end

