-- ==== Sys2Proof/Laws/State.lean ====
section
/-! SUPPORT. One lemma per field per state update, and what each update does to the registers, so that
no later proof unfolds a record update. -/

namespace Sys2Proof.Machine

/-! ### `setReg` -/

@[simp] theorem State.setReg_cfg (s : State) (i : Reg) (r : ValueReg) :
    (s.setReg i r).cfg = s.cfg := rfl

@[simp] theorem State.setReg_status (s : State) (i : Reg) (r : ValueReg) :
    (s.setReg i r).status = s.status := rfl

@[simp] theorem State.setReg_port (s : State) (i : Reg) (r : ValueReg) :
    (s.setReg i r).port = s.port := rfl

@[simp] theorem State.setReg_inputs (s : State) (i : Reg) (r : ValueReg) :
    (s.setReg i r).inputs = s.inputs := rfl

@[simp] theorem State.setReg_responses (s : State) (i : Reg) (r : ValueReg) :
    (s.setReg i r).responses = s.responses := rfl

@[simp] theorem State.setReg_W (s : State) (i : Reg) (r : ValueReg) :
    (s.setReg i r).W = s.W := rfl

@[simp] theorem State.setReg_N (s : State) (i : Reg) (r : ValueReg) :
    (s.setReg i r).N = s.N := rfl

@[simp] theorem State.setReg_T (s : State) (i : Reg) (r : ValueReg) :
    (s.setReg i r).T = s.T := rfl

/-! ### `dst` -/

@[simp] theorem State.dst_cfg (s : State) (i : Reg) (x : Nat) (fl : Flags) :
    (s.dst i x fl).cfg = s.cfg := rfl

@[simp] theorem State.dst_status (s : State) (i : Reg) (x : Nat) (fl : Flags) :
    (s.dst i x fl).status = s.status := rfl

@[simp] theorem State.dst_port (s : State) (i : Reg) (x : Nat) (fl : Flags) :
    (s.dst i x fl).port = s.port := rfl

@[simp] theorem State.dst_inputs (s : State) (i : Reg) (x : Nat) (fl : Flags) :
    (s.dst i x fl).inputs = s.inputs := rfl

@[simp] theorem State.dst_responses (s : State) (i : Reg) (x : Nat) (fl : Flags) :
    (s.dst i x fl).responses = s.responses := rfl

@[simp] theorem State.dst_W (s : State) (i : Reg) (x : Nat) (fl : Flags) :
    (s.dst i x fl).W = s.W := rfl

@[simp] theorem State.dst_N (s : State) (i : Reg) (x : Nat) (fl : Flags) :
    (s.dst i x fl).N = s.N := rfl

@[simp] theorem State.dst_T (s : State) (i : Reg) (x : Nat) (fl : Flags) :
    (s.dst i x fl).T = s.T := rfl

/-! ### `setLimb` -/

@[simp] theorem State.setLimb_cfg (s : State) (i : Reg) (k l : Nat) :
    (s.setLimb i k l).cfg = s.cfg := rfl

@[simp] theorem State.setLimb_status (s : State) (i : Reg) (k l : Nat) :
    (s.setLimb i k l).status = s.status := rfl

@[simp] theorem State.setLimb_port (s : State) (i : Reg) (k l : Nat) :
    (s.setLimb i k l).port = s.port := rfl

@[simp] theorem State.setLimb_inputs (s : State) (i : Reg) (k l : Nat) :
    (s.setLimb i k l).inputs = s.inputs := rfl

@[simp] theorem State.setLimb_responses (s : State) (i : Reg) (k l : Nat) :
    (s.setLimb i k l).responses = s.responses := rfl

@[simp] theorem State.setLimb_W (s : State) (i : Reg) (k l : Nat) :
    (s.setLimb i k l).W = s.W := rfl

@[simp] theorem State.setLimb_N (s : State) (i : Reg) (k l : Nat) :
    (s.setLimb i k l).N = s.N := rfl

@[simp] theorem State.setLimb_T (s : State) (i : Reg) (k l : Nat) :
    (s.setLimb i k l).T = s.T := rfl

/-! ### `setFlags` -/

@[simp] theorem State.setFlags_cfg (s : State) (i : Reg) (fl : Flags) :
    (s.setFlags i fl).cfg = s.cfg := rfl

@[simp] theorem State.setFlags_status (s : State) (i : Reg) (fl : Flags) :
    (s.setFlags i fl).status = s.status := rfl

@[simp] theorem State.setFlags_port (s : State) (i : Reg) (fl : Flags) :
    (s.setFlags i fl).port = s.port := rfl

@[simp] theorem State.setFlags_inputs (s : State) (i : Reg) (fl : Flags) :
    (s.setFlags i fl).inputs = s.inputs := rfl

@[simp] theorem State.setFlags_responses (s : State) (i : Reg) (fl : Flags) :
    (s.setFlags i fl).responses = s.responses := rfl

@[simp] theorem State.setFlags_W (s : State) (i : Reg) (fl : Flags) :
    (s.setFlags i fl).W = s.W := rfl

@[simp] theorem State.setFlags_N (s : State) (i : Reg) (fl : Flags) :
    (s.setFlags i fl).N = s.N := rfl

@[simp] theorem State.setFlags_T (s : State) (i : Reg) (fl : Flags) :
    (s.setFlags i fl).T = s.T := rfl

/-! ### `respond` -/

@[simp] theorem State.respond_cfg (s : State) (d : Nat) :
    (s.respond d).cfg = s.cfg := rfl

@[simp] theorem State.respond_regs (s : State) (d : Nat) :
    (s.respond d).regs = s.regs := rfl

@[simp] theorem State.respond_status (s : State) (d : Nat) :
    (s.respond d).status = s.status := rfl

@[simp] theorem State.respond_port (s : State) (d : Nat) :
    (s.respond d).port = s.port := rfl

@[simp] theorem State.respond_inputs (s : State) (d : Nat) :
    (s.respond d).inputs = s.inputs := rfl

@[simp] theorem State.respond_responses (s : State) (d : Nat) :
    (s.respond d).responses = { fault := false, data := d } :: s.responses := rfl

@[simp] theorem State.respond_W (s : State) (d : Nat) :
    (s.respond d).W = s.W := rfl

@[simp] theorem State.respond_N (s : State) (d : Nat) :
    (s.respond d).N = s.N := rfl

@[simp] theorem State.respond_T (s : State) (d : Nat) :
    (s.respond d).T = s.T := rfl

/-! ### `raiseFault` -/

@[simp] theorem State.raiseFault_cfg (s : State) (c : Cause) :
    (s.raiseFault c).cfg = s.cfg := rfl

@[simp] theorem State.raiseFault_regs (s : State) (c : Cause) :
    (s.raiseFault c).regs = s.regs := rfl

@[simp] theorem State.raiseFault_status (s : State) (c : Cause) :
    (s.raiseFault c).status = { halted := true, cause := c, fcmd := s.port.cmd } := rfl

@[simp] theorem State.raiseFault_port (s : State) (c : Cause) :
    (s.raiseFault c).port = s.port := rfl

@[simp] theorem State.raiseFault_inputs (s : State) (c : Cause) :
    (s.raiseFault c).inputs = s.inputs := rfl

@[simp] theorem State.raiseFault_responses (s : State) (c : Cause) :
    (s.raiseFault c).responses = { fault := true, data := 0 } :: s.responses := rfl

@[simp] theorem State.raiseFault_W (s : State) (c : Cause) :
    (s.raiseFault c).W = s.W := rfl

@[simp] theorem State.raiseFault_N (s : State) (c : Cause) :
    (s.raiseFault c).N = s.N := rfl

@[simp] theorem State.raiseFault_T (s : State) (c : Cause) :
    (s.raiseFault c).T = s.T := rfl

/-! ### `accept` -/

@[simp] theorem State.accept_cfg (s : State) (c : Command) (rest : List HostInput) :
    (s.accept c rest).cfg = s.cfg := rfl

@[simp] theorem State.accept_regs (s : State) (c : Command) (rest : List HostInput) :
    (s.accept c rest).regs = s.regs := rfl

@[simp] theorem State.accept_status (s : State) (c : Command) (rest : List HostInput) :
    (s.accept c rest).status = s.status := rfl

@[simp] theorem State.accept_port (s : State) (c : Command) (rest : List HostInput) :
    (s.accept c rest).port = c := rfl

@[simp] theorem State.accept_inputs (s : State) (c : Command) (rest : List HostInput) :
    (s.accept c rest).inputs = rest := rfl

@[simp] theorem State.accept_responses (s : State) (c : Command) (rest : List HostInput) :
    (s.accept c rest).responses = s.responses := rfl

@[simp] theorem State.accept_W (s : State) (c : Command) (rest : List HostInput) :
    (s.accept c rest).W = s.W := rfl

@[simp] theorem State.accept_N (s : State) (c : Command) (rest : List HostInput) :
    (s.accept c rest).N = s.N := rfl

@[simp] theorem State.accept_T (s : State) (c : Command) (rest : List HostInput) :
    (s.accept c rest).T = s.T := rfl

/-! ### `takeReset` -/

@[simp] theorem State.takeReset_cfg (s : State) (rest : List HostInput) :
    (s.takeReset rest).cfg = s.cfg := rfl

@[simp] theorem State.takeReset_status (s : State) (rest : List HostInput) :
    (s.takeReset rest).status = Status.clear := rfl

@[simp] theorem State.takeReset_port (s : State) (rest : List HostInput) :
    (s.takeReset rest).port = s.port := rfl

@[simp] theorem State.takeReset_inputs (s : State) (rest : List HostInput) :
    (s.takeReset rest).inputs = rest := rfl

@[simp] theorem State.takeReset_responses (s : State) (rest : List HostInput) :
    (s.takeReset rest).responses = s.responses := rfl

@[simp] theorem State.takeReset_W (s : State) (rest : List HostInput) :
    (s.takeReset rest).W = s.W := rfl

@[simp] theorem State.takeReset_N (s : State) (rest : List HostInput) :
    (s.takeReset rest).N = s.N := rfl

@[simp] theorem State.takeReset_T (s : State) (rest : List HostInput) :
    (s.takeReset rest).T = s.T := rfl

/-! ### `offer` -/

@[simp] theorem State.offer_cfg (s : State) (x : HostInput) :
    (s.offer x).cfg = s.cfg := rfl

@[simp] theorem State.offer_regs (s : State) (x : HostInput) :
    (s.offer x).regs = s.regs := rfl

@[simp] theorem State.offer_status (s : State) (x : HostInput) :
    (s.offer x).status = s.status := rfl

@[simp] theorem State.offer_port (s : State) (x : HostInput) :
    (s.offer x).port = s.port := rfl

@[simp] theorem State.offer_inputs (s : State) (x : HostInput) :
    (s.offer x).inputs = s.inputs ++ [x] := rfl

@[simp] theorem State.offer_responses (s : State) (x : HostInput) :
    (s.offer x).responses = s.responses := rfl

@[simp] theorem State.offer_W (s : State) (x : HostInput) :
    (s.offer x).W = s.W := rfl

@[simp] theorem State.offer_N (s : State) (x : HostInput) :
    (s.offer x).N = s.N := rfl

@[simp] theorem State.offer_T (s : State) (x : HostInput) :
    (s.offer x).T = s.T := rfl

/-! ### `withFetchWord` -/

@[simp] theorem State.withFetchWord_cfg (s : State) (nbits w : Nat) :
    (s.withFetchWord nbits w).cfg = s.cfg := rfl

@[simp] theorem State.withFetchWord_regs (s : State) (nbits w : Nat) :
    (s.withFetchWord nbits w).regs = s.regs := rfl

@[simp] theorem State.withFetchWord_status (s : State) (nbits w : Nat) :
    (s.withFetchWord nbits w).status = s.status := rfl

@[simp] theorem State.withFetchWord_port (s : State) (nbits w : Nat) :
    (s.withFetchWord nbits w).port = s.port := rfl

@[simp] theorem State.withFetchWord_inputs (s : State) (nbits w : Nat) :
    (s.withFetchWord nbits w).inputs = .command { s.port with cmd := tableWord nbits w } :: s.inputs := rfl

@[simp] theorem State.withFetchWord_responses (s : State) (nbits w : Nat) :
    (s.withFetchWord nbits w).responses = s.responses := rfl

@[simp] theorem State.withFetchWord_W (s : State) (nbits w : Nat) :
    (s.withFetchWord nbits w).W = s.W := rfl

@[simp] theorem State.withFetchWord_N (s : State) (nbits w : Nat) :
    (s.withFetchWord nbits w).N = s.N := rfl

@[simp] theorem State.withFetchWord_T (s : State) (nbits w : Nat) :
    (s.withFetchWord nbits w).T = s.T := rfl

/-! ### The registers -/

@[simp] theorem State.setReg_reg (s : State) (i j : Reg) (r : ValueReg) :
    (s.setReg i r).reg j = if j = i then r else s.reg j := by
  unfold State.setReg State.reg
  simp only [Vector.getElem_set, Fin.ext_iff]
  by_cases h : i.val = j.val
  · simp [h]
  · simp [h, Ne.symm h]

@[simp] theorem State.dst_reg (s : State) (i j : Reg) (x : Nat) (fl : Flags) :
    (s.dst i x fl).reg j =
      if j = i then { v := true, limbs := limbsOf s.W s.N x, flags := fl } else s.reg j :=
  s.setReg_reg i j _

@[simp] theorem State.setLimb_reg (s : State) (i j : Reg) (k l : Nat) :
    (s.setLimb i k l).reg j =
      if j = i then { s.reg i with limbs := (s.reg i).limbs.set k l } else s.reg j :=
  s.setReg_reg i j _

@[simp] theorem State.setFlags_reg (s : State) (i j : Reg) (fl : Flags) :
    (s.setFlags i fl).reg j = if j = i then { s.reg i with flags := fl } else s.reg j :=
  s.setReg_reg i j _

@[simp] theorem State.respond_reg (s : State) (d : Nat) (j : Reg) :
    (s.respond d).reg j = s.reg j := rfl

@[simp] theorem State.raiseFault_reg (s : State) (c : Cause) (j : Reg) :
    (s.raiseFault c).reg j = s.reg j := rfl

@[simp] theorem State.accept_reg (s : State) (c : Command) (rest : List HostInput) (j : Reg) :
    (s.accept c rest).reg j = s.reg j := rfl

@[simp] theorem State.offer_reg (s : State) (x : HostInput) (j : Reg) :
    (s.offer x).reg j = s.reg j := rfl

@[simp] theorem State.withFetchWord_reg (s : State) (nbits w : Nat) (j : Reg) :
    (s.withFetchWord nbits w).reg j = s.reg j := rfl

@[simp] theorem State.takeReset_reg (s : State) (rest : List HostInput) (j : Reg) :
    (s.takeReset rest).reg j = { s.reg j with v := false } := by
  simp [State.takeReset, State.reg]

@[simp] theorem State.resetWith_reg (c : Config) (j : Reg) :
    (State.resetWith c).reg j = ValueReg.empty c := by
  simp [State.resetWith, State.reg]

/-- Two states whose registers, parameters, status, port, inputs and responses agree are equal. -/
theorem State.ext_of_reg {s t : State} (hc : t.cfg = s.cfg) (hr : ∀ r : Reg, t.reg r = s.reg r)
    (hs : t.status = s.status) (hp : t.port = s.port) (hi : t.inputs = s.inputs)
    (ho : t.responses = s.responses) : t = s := by
  have hregs : t.regs = s.regs := by
    apply Vector.ext
    intro k hk
    exact hr ⟨k, hk⟩
  cases s; cases t
  simp_all

end Sys2Proof.Machine
end

