-- ==== Sys2Proof/Laws/Ops.lean ====
section
/-! SUPPORT. What each shared operation can do, once: the operand checks, the shape of every command's
next state (`exec_shape`), and that every operation keeps a state well formed. -/

namespace Sys2Proof.Machine

/-! ### Operand checks -/

theorem needs_of_constructed {i : Reg} {s : State} (h : s.constructed i = true) (go : Result) :
    needs i s go = go := by simp [needs, h]

theorem needs_of_unconstructed {i : Reg} {s : State} (h : s.constructed i = false) (go : Result) :
    needs i s go = faulted .unconstructed s := by simp [needs, h]

theorem withSource_of_constructed {ra : Reg} {s : State} (h : s.constructed ra = true)
    (go : Nat → Flags → Result) : withSource ra s go = go (s.value ra) (s.flags ra) :=
  needs_of_constructed h _

theorem withSource_of_unconstructed {ra : Reg} {s : State} (h : s.constructed ra = false)
    (go : Nat → Flags → Result) : withSource ra s go = faulted .unconstructed s :=
  needs_of_unconstructed h _

theorem withSources_of_constructed {ra rb : Reg} {s : State} (ha : s.constructed ra = true)
    (hb : s.constructed rb = true) (go : Nat → Flags → Nat → Flags → Result) :
    withSources ra rb s go = go (s.value ra) (s.flags ra) (s.value rb) (s.flags rb) := by
  rw [withSources, needs_of_constructed ha, needs_of_constructed hb]

theorem withSources_of_unconstructed {ra rb : Reg} {s : State}
    (h : s.constructed ra = false ∨ s.constructed rb = false)
    (go : Nat → Flags → Nat → Flags → Result) :
    withSources ra rb s go = faulted .unconstructed s := by
  unfold withSources needs
  rcases h with h | h <;> cases ha : s.constructed ra <;> simp_all

theorem withLimbIndex_of_lt {idx : Nat} {s : State} (h : idx < s.N) (go : Result) :
    withLimbIndex idx s go = go := by simp [withLimbIndex, Nat.not_le.2 h]

theorem withLimbIndex_of_le {idx : Nat} {s : State} (h : s.N ≤ idx) (go : Result) :
    withLimbIndex idx s go = faulted .operandRange s := by simp [withLimbIndex, h]

theorem withFlagIndex_of_lt {f : Nat} (h : f < 7) (s : State) (go : Result) :
    withFlagIndex f s go = go := by simp [withFlagIndex, Nat.not_le.2 h]

theorem withFlagIndex_of_le {f : Nat} (h : 7 ≤ f) (s : State) (go : Result) :
    withFlagIndex f s go = faulted .operandRange s := by simp [withFlagIndex, h]

theorem withDivisor_of_ne {b : Nat} (h : b ≠ 0) (s : State) (go : Result) :
    withDivisor b s go = go := by simp [withDivisor, h]

theorem withDivisor_zero (s : State) (go : Result) :
    withDivisor 0 s go = faulted .divideByZero s := by simp [withDivisor]

/-! ### Well-formedness -/

theorem limbsWf_iff {c : Config} {ls : List Nat} :
    limbsWf c ls = true ↔ ls.length = c.N ∧ ∀ l ∈ ls, l < 2 ^ c.W := by
  simp [limbsWf]

theorem limbsWf_limbsOf (c : Config) (x : Nat) : limbsWf c (limbsOf c.W c.N x) = true :=
  limbsWf_iff.2 ⟨length_limbsOf .., limbsOf_lt _ _ _⟩

theorem limbsWf_set {c : Config} {ls : List Nat} (h : limbsWf c ls = true) (k : Nat) {l : Nat}
    (hl : l < 2 ^ c.W) : limbsWf c (ls.set k l) = true := by
  rw [limbsWf_iff] at h ⊢
  refine ⟨by simpa using h.1, fun x hx => ?_⟩
  rcases List.mem_or_eq_of_mem_set hx with hx | rfl
  · exact h.2 x hx
  · exact hl

theorem limbIn_lt (s : State) : s.limbIn < 2 ^ s.cfg.W := Nat.mod_lt _ (Nat.two_pow_pos _)

theorem State.wf_iff {s : State} : s.wf = true ↔
    s.cfg.wf = true ∧ (∀ r : Reg, limbsWf s.cfg (s.reg r).limbs = true) ∧ s.status.wf = true ∧
      ∀ r ∈ s.responses, Response.wf s.cfg r = true := by
  have hr : (∀ x ∈ s.regs.toList, limbsWf s.cfg x.limbs = true) ↔
      ∀ r : Reg, limbsWf s.cfg (s.reg r).limbs = true := by
    constructor
    · intro h r
      exact h _ (by simp [State.reg])
    · intro h x hx
      obtain ⟨k, hk, rfl⟩ := List.mem_iff_getElem.1 hx
      simpa [State.reg] using h ⟨k, by simpa using hk⟩
  simp only [State.wf, Bool.and_eq_true, List.all_eq_true, hr, and_assoc]

/-- A register of a well-formed state spells a number below `2^T` (R21). -/
theorem State.value_lt {s : State} (h : s.wf = true) (r : Reg) : s.value r < 2 ^ s.T := by
  have hw := limbsWf_iff.1 ((State.wf_iff.1 h).2.1 r)
  have := valOf_lt hw.2
  rw [hw.1] at this
  exact this

theorem State.setReg_wf {s : State} (h : s.wf = true) (i : Reg) {r : ValueReg}
    (hr : limbsWf s.cfg r.limbs = true) : (s.setReg i r).wf = true := by
  rw [State.wf_iff] at h ⊢
  refine ⟨h.1, fun j => ?_, h.2.2.1, h.2.2.2⟩
  rw [State.setReg_reg]
  split
  · exact hr
  · exact h.2.1 j

theorem State.dst_wf {s : State} (h : s.wf = true) (i : Reg) (x : Nat) (fl : Flags) :
    (s.dst i x fl).wf = true := s.setReg_wf h i (limbsWf_limbsOf _ _)

theorem State.setLimb_wf {s : State} (h : s.wf = true) (i : Reg) (k : Nat) {l : Nat}
    (hl : l < 2 ^ s.cfg.W) : (s.setLimb i k l).wf = true :=
  s.setReg_wf h i (limbsWf_set ((State.wf_iff.1 h).2.1 i) k hl)

theorem State.setFlags_wf {s : State} (h : s.wf = true) (i : Reg) (fl : Flags) :
    (s.setFlags i fl).wf = true := s.setReg_wf h i ((State.wf_iff.1 h).2.1 i)

theorem State.respond_wf {s : State} (h : s.wf = true) {d : Nat} (hd : d < 2 ^ s.cfg.W) :
    (s.respond d).wf = true := by
  rw [State.wf_iff] at h ⊢
  refine ⟨h.1, h.2.1, h.2.2.1, fun r hr => ?_⟩
  rcases List.mem_cons.1 hr with rfl | hr
  · simp [Response.wf, hd]
  · exact h.2.2.2 r hr

theorem State.raiseFault_wf {s : State} (h : s.wf = true) {c : Cause} (hc : c ≠ .noFault) :
    (s.raiseFault c).wf = true := by
  rw [State.wf_iff] at h ⊢
  refine ⟨h.1, h.2.1, by simp [Status.wf, hc], fun r hr => ?_⟩
  rcases List.mem_cons.1 hr with rfl | hr
  · simp [Response.wf]
  · exact h.2.2.2 r hr

theorem State.accept_wf {s : State} (h : s.wf = true) (c : Command) (rest : List HostInput) :
    (s.accept c rest).wf = true := by
  rw [State.wf_iff] at h ⊢; exact h

theorem State.takeReset_wf {s : State} (h : s.wf = true) (rest : List HostInput) :
    (s.takeReset rest).wf = true := by
  rw [State.wf_iff] at h ⊢
  exact ⟨h.1, fun r => by simpa using h.2.1 r, rfl, h.2.2.2⟩

/-- Eight bits at least fit a limb: the flags and the compare codes always fit (R78). -/
theorem two_pow_W_ge (c : Config) : 256 ≤ 2 ^ c.W := by
  have : 8 ≤ c.W := by unfold Config.W; cases c.width <;> decide
  calc 256 = 2 ^ 8 := rfl
    _ ≤ 2 ^ c.W := Nat.pow_le_pow_right (by decide) this

/-! ### What is returned fits the response port (R78) -/

theorem limb_lt {s : State} (h : s.wf = true) (r : Reg) (k : Nat) : s.limb r k < 2 ^ s.cfg.W := by
  have hw := (limbsWf_iff.1 ((State.wf_iff.1 h).2.1 r)).2
  unfold State.limb
  rw [List.getD_eq_getElem?_getD]
  cases hk : (s.reg r).limbs[k]? with
  | none => exact Nat.two_pow_pos _
  | some l => exact hw l (List.mem_of_getElem? hk)

theorem compareCode_lt (c : Config) (a b : Nat) : compareCode a b < 2 ^ c.W := by
  have := two_pow_W_ge c
  unfold compareCode
  split
  · omega
  · split <;> omega

theorem readFlag_lt (c : Config) (fl : Flags) (f : Nat) : readFlag fl f < 2 ^ c.W := by
  have := two_pow_W_ge c
  unfold readFlag
  omega

theorem flags_toNat_lt (c : Config) (fl : Flags) : fl.toNat < 2 ^ c.W := by
  have := two_pow_W_ge c
  have := fl.isLt
  omega

/-! ### The shape of a command's next state -/

/-- The next state of a command: a fault taken, a whole value written, one limb written, the flags
of one register written, or a response alone. -/
inductive Shape (s : State) : Option Reg → Result → Prop where
  | fault {w : Option Reg} (c : Cause) (hc : c ≠ .noFault) : Shape s w (.next (s.raiseFault c))
  | value (rd : Reg) (x : Nat) (fl : Flags) : Shape s (some rd) (.next ((s.dst rd x fl).respond 0))
  | limb (rd : Reg) (k : Nat) (hk : k < s.N) :
      Shape s (some rd) (.next ((s.setLimb rd k s.limbIn).respond 0))
  | flags (rd : Reg) (fl : Flags) : Shape s (some rd) (.next ((s.setFlags rd fl).respond 0))
  | answer (d : Nat) (hd : s.wf = true → d < 2 ^ s.cfg.W) : Shape s none (.next (s.respond d))

section
variable {s : State} {w : Option Reg}

theorem Shape.of_faulted {c : Cause} (hc : c ≠ .noFault) : Shape s w (faulted c s) := .fault c hc

theorem Shape.of_needs {i : Reg} {go : Result} (h : Shape s w go) : Shape s w (needs i s go) := by
  unfold needs; split
  · exact h
  · exact .of_faulted (by decide)

theorem Shape.of_withSource {ra : Reg} {go : Nat → Flags → Result} (h : ∀ a fa, Shape s w (go a fa)) :
    Shape s w (withSource ra s go) := .of_needs (h _ _)

theorem Shape.of_withSources {ra rb : Reg} {go : Nat → Flags → Nat → Flags → Result}
    (h : ∀ a fa b fb, Shape s w (go a fa b fb)) : Shape s w (withSources ra rb s go) :=
  .of_needs (.of_needs (h _ _ _ _))

theorem Shape.of_withLimbIndex {idx : Nat} {go : Result} (h : idx < s.N → Shape s w go) :
    Shape s w (withLimbIndex idx s go) := by
  unfold withLimbIndex; split
  · exact .of_faulted (by decide)
  · next hn => exact h (Nat.lt_of_not_le hn)

theorem Shape.of_withFlagIndex {f : Nat} {go : Result} (h : Shape s w go) :
    Shape s w (withFlagIndex f s go) := by
  unfold withFlagIndex; split
  · exact .of_faulted (by decide)
  · exact h

theorem Shape.of_withDivisor {b : Nat} {go : Result} (h : Shape s w go) :
    Shape s w (withDivisor b s go) := by
  unfold withDivisor; split
  · exact .of_faulted (by decide)
  · exact h

end

/-- Everything a command can do to the state. -/
theorem exec_shape (i : Instr) (s : State) : Shape s i.writesTo (exec i s) := by
  cases i with
  | zero rd => exact .value ..
  | one rd => exact .value ..
  | max rd => exact .value ..
  | fromw rd => exact .value ..
  | mov rd ra => exact .of_withSource fun _ _ => .value ..
  | setl rd idx => exact .of_withLimbIndex fun h => .of_needs (.limb _ _ h)
  | getl ra idx => exact .of_withLimbIndex fun _ => .of_needs (.answer _ (limb_lt · ra idx))
  | add rd ra rb => exact .of_withSources fun _ _ _ _ => .value ..
  | adds rd ra => exact .of_withSource fun _ _ => .value ..
  | sub rd ra rb => exact .of_withSources fun _ _ _ _ => .value ..
  | subs rd ra => exact .of_withSource fun _ _ => .value ..
  | mul rd ra rb => exact .of_withSources fun _ _ _ _ => .value ..
  | muls rd ra => exact .of_withSource fun _ _ => .value ..
  | div rd ra rb => exact .of_withSources fun _ _ _ _ => .of_withDivisor (.value ..)
  | divs rd ra => exact .of_withSource fun _ _ => .of_withDivisor (.value ..)
  | rem rd ra rb => exact .of_withSources fun _ _ _ _ => .of_withDivisor (.value ..)
  | rems rd ra => exact .of_withSource fun _ _ => .of_withDivisor (.value ..)
  | shl rd ra => exact .of_withSource fun _ _ => .value ..
  | shr rd ra => exact .of_withSource fun _ _ => .value ..
  | and rd ra rb => exact .of_withSources fun _ _ _ _ => .value ..
  | or rd ra rb => exact .of_withSources fun _ _ _ _ => .value ..
  | xor rd ra rb => exact .of_withSources fun _ _ _ _ => .value ..
  | not rd ra => exact .of_withSource fun _ _ => .value ..
  | cmp ra rb => exact .of_withSources fun _ _ _ _ => .answer _ fun _ => compareCode_lt ..
  | cmps ra => exact .of_withSource fun _ _ => .answer _ fun _ => compareCode_lt ..
  | tstf ra f => exact .of_withFlagIndex (.of_needs (.answer _ fun _ => readFlag_lt ..))
  | setf rd f => exact .of_withFlagIndex (.of_needs (.flags _ _))
  | clrf rd f => exact .of_withFlagIndex (.of_needs (.flags _ _))
  | clrall rd => exact .of_needs (.flags _ _)
  | rdf ra => exact .of_needs (.answer _ fun _ => flags_toNat_lt ..)

/-- Every command answers a next state: no meaning stops the machine. -/
theorem exec_next (i : Instr) (s : State) : ∃ t, exec i s = .next t := by
  have hs := exec_shape i s
  generalize exec i s = r, i.writesTo = w at hs ⊢
  cases hs <;> exact ⟨_, rfl⟩

end Sys2Proof.Machine
end

