-- ==== Sys2Proof/Laws/PerInstr.lean ====
section
/-! SUPPORT. Statements made for all instructions, one lemma per constructor of Instr. -/

/-! ### FormFits: the word of a well-formed instruction has its opcode in bits 31:24 and a zero in
every bit its form does not use, which is the test of R77 (spec/30_encoding.md R75, R76). -/

namespace Sys2Proof.Laws.FormFits

/-- The family's statement about one instruction. -/
def Statement (i : Instr) : Prop :=
  i.wf = true → opField (encode i) = i.opcode ∧ i.form.unusedZero (encode i)

theorem zero (rd : Reg) : Statement (.zero rd) := by
  intro _
  have hi : 0 < 4096 := by decide
  exact assemble_fits (Instr.opcode_lt (.zero rd)) rd 0 0 hi ⟨rfl, rfl, rfl⟩

theorem one (rd : Reg) : Statement (.one rd) := by
  intro _
  have hi : 0 < 4096 := by decide
  exact assemble_fits (Instr.opcode_lt (.one rd)) rd 0 0 hi ⟨rfl, rfl, rfl⟩

theorem max (rd : Reg) : Statement (.max rd) := by
  intro _
  have hi : 0 < 4096 := by decide
  exact assemble_fits (Instr.opcode_lt (.max rd)) rd 0 0 hi ⟨rfl, rfl, rfl⟩

theorem fromw (rd : Reg) : Statement (.fromw rd) := by
  intro _
  have hi : 0 < 4096 := by decide
  exact assemble_fits (Instr.opcode_lt (.fromw rd)) rd 0 0 hi ⟨rfl, rfl, rfl⟩

theorem mov (rd ra : Reg) : Statement (.mov rd ra) := by
  intro _
  have hi : 0 < 4096 := by decide
  exact assemble_fits (Instr.opcode_lt (.mov rd ra)) rd ra 0 hi ⟨rfl, rfl⟩

theorem setl (rd : Reg) (idx : Nat) : Statement (.setl rd idx) := by
  intro h
  have hi : idx < 4096 := of_decide_eq_true h
  exact assemble_fits (Instr.opcode_lt (.setl rd idx)) rd 0 0 hi ⟨rfl, rfl⟩

theorem getl (ra : Reg) (idx : Nat) : Statement (.getl ra idx) := by
  intro h
  have hi : idx < 4096 := of_decide_eq_true h
  exact assemble_fits (Instr.opcode_lt (.getl ra idx)) 0 ra 0 hi ⟨rfl, rfl⟩

theorem add (rd ra rb : Reg) : Statement (.add rd ra rb) := by
  intro _
  have hi : 0 < 4096 := by decide
  exact assemble_fits (Instr.opcode_lt (.add rd ra rb)) rd ra rb hi rfl

theorem adds (rd ra : Reg) : Statement (.adds rd ra) := by
  intro _
  have hi : 0 < 4096 := by decide
  exact assemble_fits (Instr.opcode_lt (.adds rd ra)) rd ra 0 hi ⟨rfl, rfl⟩

theorem sub (rd ra rb : Reg) : Statement (.sub rd ra rb) := by
  intro _
  have hi : 0 < 4096 := by decide
  exact assemble_fits (Instr.opcode_lt (.sub rd ra rb)) rd ra rb hi rfl

theorem subs (rd ra : Reg) : Statement (.subs rd ra) := by
  intro _
  have hi : 0 < 4096 := by decide
  exact assemble_fits (Instr.opcode_lt (.subs rd ra)) rd ra 0 hi ⟨rfl, rfl⟩

theorem mul (rd ra rb : Reg) : Statement (.mul rd ra rb) := by
  intro _
  have hi : 0 < 4096 := by decide
  exact assemble_fits (Instr.opcode_lt (.mul rd ra rb)) rd ra rb hi rfl

theorem muls (rd ra : Reg) : Statement (.muls rd ra) := by
  intro _
  have hi : 0 < 4096 := by decide
  exact assemble_fits (Instr.opcode_lt (.muls rd ra)) rd ra 0 hi ⟨rfl, rfl⟩

theorem div (rd ra rb : Reg) : Statement (.div rd ra rb) := by
  intro _
  have hi : 0 < 4096 := by decide
  exact assemble_fits (Instr.opcode_lt (.div rd ra rb)) rd ra rb hi rfl

theorem divs (rd ra : Reg) : Statement (.divs rd ra) := by
  intro _
  have hi : 0 < 4096 := by decide
  exact assemble_fits (Instr.opcode_lt (.divs rd ra)) rd ra 0 hi ⟨rfl, rfl⟩

theorem rem (rd ra rb : Reg) : Statement (.rem rd ra rb) := by
  intro _
  have hi : 0 < 4096 := by decide
  exact assemble_fits (Instr.opcode_lt (.rem rd ra rb)) rd ra rb hi rfl

theorem rems (rd ra : Reg) : Statement (.rems rd ra) := by
  intro _
  have hi : 0 < 4096 := by decide
  exact assemble_fits (Instr.opcode_lt (.rems rd ra)) rd ra 0 hi ⟨rfl, rfl⟩

theorem shl (rd ra : Reg) : Statement (.shl rd ra) := by
  intro _
  have hi : 0 < 4096 := by decide
  exact assemble_fits (Instr.opcode_lt (.shl rd ra)) rd ra 0 hi ⟨rfl, rfl⟩

theorem shr (rd ra : Reg) : Statement (.shr rd ra) := by
  intro _
  have hi : 0 < 4096 := by decide
  exact assemble_fits (Instr.opcode_lt (.shr rd ra)) rd ra 0 hi ⟨rfl, rfl⟩

theorem and (rd ra rb : Reg) : Statement (.and rd ra rb) := by
  intro _
  have hi : 0 < 4096 := by decide
  exact assemble_fits (Instr.opcode_lt (.and rd ra rb)) rd ra rb hi rfl

theorem or (rd ra rb : Reg) : Statement (.or rd ra rb) := by
  intro _
  have hi : 0 < 4096 := by decide
  exact assemble_fits (Instr.opcode_lt (.or rd ra rb)) rd ra rb hi rfl

theorem xor (rd ra rb : Reg) : Statement (.xor rd ra rb) := by
  intro _
  have hi : 0 < 4096 := by decide
  exact assemble_fits (Instr.opcode_lt (.xor rd ra rb)) rd ra rb hi rfl

theorem not (rd ra : Reg) : Statement (.not rd ra) := by
  intro _
  have hi : 0 < 4096 := by decide
  exact assemble_fits (Instr.opcode_lt (.not rd ra)) rd ra 0 hi ⟨rfl, rfl⟩

theorem cmp (ra rb : Reg) : Statement (.cmp ra rb) := by
  intro _
  have hi : 0 < 4096 := by decide
  exact assemble_fits (Instr.opcode_lt (.cmp ra rb)) 0 ra rb hi ⟨rfl, rfl⟩

theorem cmps (ra : Reg) : Statement (.cmps ra) := by
  intro _
  have hi : 0 < 4096 := by decide
  exact assemble_fits (Instr.opcode_lt (.cmps ra)) 0 ra 0 hi ⟨rfl, rfl, rfl⟩

theorem tstf (ra : Reg) (f : Nat) : Statement (.tstf ra f) := by
  intro h
  have hf : f < 8 := of_decide_eq_true h
  have hi : f < 4096 := by omega
  exact assemble_fits (Instr.opcode_lt (.tstf ra f)) 0 ra 0 hi ⟨rfl, rfl, hf⟩

theorem setf (rd : Reg) (f : Nat) : Statement (.setf rd f) := by
  intro h
  have hf : f < 8 := of_decide_eq_true h
  have hi : f < 4096 := by omega
  exact assemble_fits (Instr.opcode_lt (.setf rd f)) rd 0 0 hi ⟨rfl, rfl, hf⟩

theorem clrf (rd : Reg) (f : Nat) : Statement (.clrf rd f) := by
  intro h
  have hf : f < 8 := of_decide_eq_true h
  have hi : f < 4096 := by omega
  exact assemble_fits (Instr.opcode_lt (.clrf rd f)) rd 0 0 hi ⟨rfl, rfl, hf⟩

theorem clrall (rd : Reg) : Statement (.clrall rd) := by
  intro _
  have hi : 0 < 4096 := by decide
  exact assemble_fits (Instr.opcode_lt (.clrall rd)) rd 0 0 hi ⟨rfl, rfl, rfl⟩

theorem rdf (ra : Reg) : Statement (.rdf ra) := by
  intro _
  have hi : 0 < 4096 := by decide
  exact assemble_fits (Instr.opcode_lt (.rdf ra)) 0 ra 0 hi ⟨rfl, rfl, rfl⟩

end Sys2Proof.Laws.FormFits
end

