-- ==== Sys2Proof/Machine/Assembler.lean ====
section
/-! DEFINITION. The spec's own notation (spec/30_encoding.md R84) and its pseudo-instructions (R85):
what a listing of commands looks like and what each pseudo-instruction stands for. They are
conveniences of the notation; the block knows only the thirty commands. -/

namespace Sys2Proof.Machine

/-- The command the host presents for `i` with the port operands given. -/
def commandOf (i : Instr) (limbIn : Nat) (amtIn : Amount) : Command :=
  { cmd := encode i, limbIn := limbIn, amtIn := amtIn }

/-- `SETL rd, [k], #l` for each limb of a list, from index `k` up. -/
def setLimbs (rd : Reg) : Nat → List Nat → List Command
  | _, [] => []
  | k, l :: ls => commandOf (.setl rd k) l 0 :: setLimbs rd (k + 1) ls

/-- `LDV Vd, l0, l1, ...`: ZERO, then SETL of each limb, `l0` the least significant (R85). -/
def loadValue (rd : Reg) (ls : List Nat) : List Command :=
  commandOf (.zero rd) 0 0 :: setLimbs rd 0 ls

/-- The pseudo-instructions of R85 that stand for one command each. -/
inductive Pseudo where
  | addA (rd rb : Reg) | subA (rd rb : Reg) | mulA (rd rb : Reg) | divA (rd rb : Reg)
  | remA (rd rb : Reg) | andA (rd rb : Reg) | orA (rd rb : Reg) | xorA (rd rb : Reg)
  | addsA (rd : Reg) | subsA (rd : Reg) | mulsA (rd : Reg) | divsA (rd : Reg) | remsA (rd : Reg)
  | shlA (rd : Reg) | shrA (rd : Reg) | notA (rd : Reg)
  | isovf (ra : Reg) | isunf (ra : Reg) | isinf (ra : Reg) | isdbz (ra : Reg) | isund (ra : Reg)
  | islcy (ra : Reg) | isrcy (ra : Reg)
  deriving DecidableEq, Repr

/-- The expansion column of R85. -/
def Pseudo.expand : Pseudo → Instr
  | .addA rd rb => .add rd rd rb
  | .subA rd rb => .sub rd rd rb
  | .mulA rd rb => .mul rd rd rb
  | .divA rd rb => .div rd rd rb
  | .remA rd rb => .rem rd rd rb
  | .andA rd rb => .and rd rd rb
  | .orA rd rb => .or rd rd rb
  | .xorA rd rb => .xor rd rd rb
  | .addsA rd => .adds rd rd
  | .subsA rd => .subs rd rd
  | .mulsA rd => .muls rd rd
  | .divsA rd => .divs rd rd
  | .remsA rd => .rems rd rd
  | .shlA rd => .shl rd rd
  | .shrA rd => .shr rd rd
  | .notA rd => .not rd rd
  | .isovf ra => .tstf ra 0
  | .isunf ra => .tstf ra 1
  | .isinf ra => .tstf ra 2
  | .isdbz ra => .tstf ra 3
  | .isund ra => .tstf ra 4
  | .islcy ra => .tstf ra 5
  | .isrcy ra => .tstf ra 6

/-- `Vn` (R84). -/
def regText (r : Reg) : String := "V" ++ toString r.val

/-- `[k]` (R84). -/
def indexText (k : Nat) : String := "[" ++ toString k ++ "]"

/-- A flag is written by its name (R84, R24); an index without a flag as the vectors write it. -/
def flagText : Nat → String
  | 0 => "OVERFLOW"
  | 1 => "UNDERFLOW"
  | 2 => "INFINITY"
  | 3 => "DIVIDED_BY_ZERO"
  | 4 => "UNDEFINED"
  | 5 => "LEFT_CARRY"
  | 6 => "RIGHT_CARRY"
  | f => "f=" ++ toString f

/-- Mnemonic, then operands separated by commas (R84). -/
def lineText (mnemonic : String) (operands : List String) : String :=
  mnemonic ++ " " ++ String.intercalate ", " operands

/-- One line of the notation: the templates of R84, with the port operands written `#x`. -/
def asmText (i : Instr) (limbIn : Nat) (amtIn : Amount) : String :=
  let l := "#" ++ toString limbIn
  let n := "#" ++ toString amtIn.toInt
  match i with
  | .zero rd => lineText "ZERO" [regText rd]
  | .one rd => lineText "ONE" [regText rd]
  | .max rd => lineText "MAX" [regText rd]
  | .fromw rd => lineText "FROMW" [regText rd, l]
  | .mov rd ra => lineText "MOV" [regText rd, regText ra]
  | .setl rd idx => lineText "SETL" [regText rd, indexText idx, l]
  | .getl ra idx => lineText "GETL" [regText ra, indexText idx]
  | .add rd ra rb => lineText "ADD" [regText rd, regText ra, regText rb]
  | .adds rd ra => lineText "ADDS" [regText rd, regText ra, l]
  | .sub rd ra rb => lineText "SUB" [regText rd, regText ra, regText rb]
  | .subs rd ra => lineText "SUBS" [regText rd, regText ra, l]
  | .mul rd ra rb => lineText "MUL" [regText rd, regText ra, regText rb]
  | .muls rd ra => lineText "MULS" [regText rd, regText ra, l]
  | .div rd ra rb => lineText "DIV" [regText rd, regText ra, regText rb]
  | .divs rd ra => lineText "DIVS" [regText rd, regText ra, l]
  | .rem rd ra rb => lineText "REM" [regText rd, regText ra, regText rb]
  | .rems rd ra => lineText "REMS" [regText rd, regText ra, l]
  | .shl rd ra => lineText "SHL" [regText rd, regText ra, n]
  | .shr rd ra => lineText "SHR" [regText rd, regText ra, n]
  | .and rd ra rb => lineText "AND" [regText rd, regText ra, regText rb]
  | .or rd ra rb => lineText "OR" [regText rd, regText ra, regText rb]
  | .xor rd ra rb => lineText "XOR" [regText rd, regText ra, regText rb]
  | .not rd ra => lineText "NOT" [regText rd, regText ra]
  | .cmp ra rb => lineText "CMP" [regText ra, regText rb]
  | .cmps ra => lineText "CMPS" [regText ra, l]
  | .tstf ra f => lineText "TSTF" [regText ra, flagText f]
  | .setf rd f => lineText "SETF" [regText rd, flagText f]
  | .clrf rd f => lineText "CLRF" [regText rd, flagText f]
  | .clrall rd => lineText "CLRALL" [regText rd]
  | .rdf ra => lineText "RDF" [regText ra]

end Sys2Proof.Machine
end

