-- ==== Sys2Proof/Tests/Slice0.lean ====
section
/-! SUPPORT. The model's own tests: ill-formed terms that WellFormed refuses, one word of every command
decoded, at most two single steps per command with the results of spec/95_test_vectors.md (its ids
stand before each), and for every obligation with hypotheses a concrete state that meets them. -/

namespace Sys2Proof.Tests
open Machine

/-! ### Helpers -/

/-- R6(c): `W = 8, N = 2`, the configuration of the vectors. -/
def tiny : Config := ⟨.w8, 2⟩

/-- The reset state of `tiny` with the registers listed, each as (index, value, flags), the ports
as given, and `inputs` for the host's next inputs. -/
def start (rs : List (Reg × Nat × Flags)) (l : Nat) (a : Amount) (inputs : List HostInput) : State :=
  { rs.foldl (fun s r => s.dst r.1 r.2.1 r.2.2) (State.resetWith tiny) with
    port := { cmd := 0, limbIn := l, amtIn := a }, inputs := inputs }

/-- One step in which the host presents a word with the port operands given. -/
def present (rs : List (Reg × Nat × Flags)) (w : CmdWord) (l : Nat) (a : Amount) : Result :=
  step (start rs 0 0 [.command ⟨w, l, a⟩])

/-- The next state, or the reset state where there is none. -/
def nextOf : Result → State
  | .next t => t
  | .fault _ => .reset
  | .refused _ => .reset

/-- The command completed, responded `(0, 0)`, and left `x` with flags `fl` in `rd`. -/
def left (r : Result) (rd : Reg) (x : Nat) (fl : Flags) : Bool :=
  match r with
  | .next t => t.constructed rd && t.value rd == x && t.flags rd == fl && !t.status.halted &&
      t.responses == [{ fault := false, data := 0 }]
  | .fault _ => false
  | .refused _ => false

/-- The command completed and responded `(0, d)`. -/
def answered (r : Result) (d : Nat) : Bool :=
  match r with
  | .next t => !t.status.halted && t.responses == [{ fault := false, data := d }]
  | .fault _ => false
  | .refused _ => false

/-- The command faulted with cause code `c` and the word `w`, and responded `(1, 0)`. -/
def faultedWith (r : Result) (c : BitVec 4) (w : CmdWord) : Bool :=
  match r with
  | .next t => t.haltedOut && t.causeOut == c && t.fcmdOut == w &&
      t.responses == [{ fault := true, data := 0 }]
  | .fault _ => false
  | .refused _ => false

/-! ### WellFormed refuses -/

theorem test_wf_refuses_setl_index : (Instr.setl 0 4096).wf = false := by decide

theorem test_wf_refuses_getl_index : (Instr.getl 0 4096).wf = false := by decide

theorem test_wf_refuses_tstf_flag : (Instr.tstf 0 8).wf = false := by decide

theorem test_wf_refuses_setf_flag : (Instr.setf 0 8).wf = false := by decide

theorem test_wf_refuses_clrf_flag : (Instr.clrf 0 8).wf = false := by decide

/-- No limb above `2^W - 1`, no other number of limbs (R8, R21). -/
theorem test_wf_refuses_limbs :
    limbsWf tiny [256, 0] = false ∧ limbsWf tiny [0] = false ∧ limbsWf tiny [255, 255] = true := by
  decide

/-- R4: `1 <= N <= 4096`. -/
theorem test_wf_refuses_parameters :
    Config.wf ⟨.w8, 0⟩ = false ∧ Config.wf ⟨.w8, 4097⟩ = false ∧ Config.wf ⟨.w128, 4096⟩ = true := by
  decide

/-! ### Decoding: every command's word, written out from R75 and R80 -/

theorem test_decode_zero : decode 0x01300000#32 = some (.zero 3) := by decide

theorem test_decode_one : decode 0x02F00000#32 = some (.one 15) := by decide

theorem test_decode_max : decode 0x03500000#32 = some (.max 5) := by decide

theorem test_decode_fromw : decode 0x04200000#32 = some (.fromw 2) := by decide

theorem test_decode_mov : decode 0x05A70000#32 = some (.mov 10 7) := by decide

theorem test_decode_setl : decode 0x06F00FFF#32 = some (.setl 15 4095) := by decide

theorem test_decode_getl : decode 0x070C0801#32 = some (.getl 12 0x801) := by decide

theorem test_decode_add : decode 0x10123000#32 = some (.add 1 2 3) := by decide

theorem test_decode_adds : decode 0x11450000#32 = some (.adds 4 5) := by decide

theorem test_decode_sub : decode 0x12678000#32 = some (.sub 6 7 8) := by decide

theorem test_decode_subs : decode 0x139A0000#32 = some (.subs 9 10) := by decide

theorem test_decode_mul : decode 0x20BCD000#32 = some (.mul 11 12 13) := by decide

theorem test_decode_muls : decode 0x21EF0000#32 = some (.muls 14 15) := by decide

theorem test_decode_div : decode 0x30321000#32 = some (.div 3 2 1) := by decide

theorem test_decode_divs : decode 0x31650000#32 = some (.divs 6 5) := by decide

theorem test_decode_rem : decode 0x32987000#32 = some (.rem 9 8 7) := by decide

theorem test_decode_rems : decode 0x33CB0000#32 = some (.rems 12 11) := by decide

theorem test_decode_shl : decode 0x40100000#32 = some (.shl 1 0) := by decide

theorem test_decode_shr : decode 0x41FE0000#32 = some (.shr 15 14) := by decide

theorem test_decode_and : decode 0x50246000#32 = some (.and 2 4 6) := by decide

theorem test_decode_or : decode 0x5118F000#32 = some (.or 1 8 15) := by decide

theorem test_decode_xor : decode 0x5280A000#32 = some (.xor 8 0 10) := by decide

theorem test_decode_not : decode 0x53100000#32 = some (.not 1 0) := by decide

theorem test_decode_cmp : decode 0x60012000#32 = some (.cmp 1 2) := by decide

theorem test_decode_cmps : decode 0x610D0000#32 = some (.cmps 13) := by decide

theorem test_decode_tstf : decode 0x70050006#32 = some (.tstf 5 6) := by decide

theorem test_decode_setf : decode 0x71100004#32 = some (.setf 1 4) := by decide

theorem test_decode_clrf : decode 0x72900007#32 = some (.clrf 9 7) := by decide

theorem test_decode_clrall : decode 0x73B00000#32 = some (.clrall 11) := by decide

theorem test_decode_rdf : decode 0x74020000#32 = some (.rdf 2) := by decide

/-- Unused bits set, one word per form (R76, R81(b)), and unassigned opcodes (R81(a)). -/
theorem test_decode_illegal :
    decode 0x01310000#32 = none ∧ decode 0x04201000#32 = none ∧ decode 0x05101000#32 = none ∧
    decode 0x10201001#32 = none ∧ decode 0x11201000#32 = none ∧ decode 0x40100001#32 = none ∧
    decode 0x06010000#32 = none ∧ decode 0x07100000#32 = none ∧ decode 0x60101000#32 = none ∧
    decode 0x61001000#32 = none ∧ decode 0x74120000#32 = none ∧ decode 0x70000008#32 = none ∧
    decode 0x71010000#32 = none ∧ decode 0x00000000#32 = none ∧ decode 0x08000000#32 = none ∧
    decode 0xFFFFFFFF#32 = none := by
  decide

/-- R75: the word `oo d a b xxx`. -/
theorem test_encode_rem : encode (.rem 9 8 7) = 0x32987000#32 := by decide

/-- R85: `LDV V1, 0x34, 0x12`. -/
theorem test_load_value :
    (loadValue 1 [0x34, 0x12]).map (fun c => (c.cmd, c.limbIn)) =
      [(0x01100000#32, 0), (0x06100000#32, 0x34), (0x06100001#32, 0x12)] := by
  decide

/-! ### One step of each command -/

-- CM6
theorem test_zero_discards :
    left (present [(3, 0xBEEF, 0x63)] 0x01300000 0 0) 3 0x0000 0x00 = true := by decide

-- CM2
theorem test_one :
    left (present [] 0x02100000 0 0) 1 0x0001 0x00 = true := by decide

-- CM3
theorem test_max :
    left (present [] 0x03000000 0 0) 0 0xFFFF 0x00 = true := by decide

-- CM4
theorem test_fromw :
    left (present [] 0x04200000 0x64 0) 2 0x0064 0x00 = true := by decide

-- CM7
theorem test_mov :
    left (present [(0, 0xFFFE, 0x21)] 0x05100000 0 0) 1 0xFFFE 0x21 = true := by decide

-- CM9
theorem test_mov_unconstructed :
    faultedWith (present [] 0x05100000 0 0) 3 0x05100000#32 = true := by decide

-- CM11
theorem test_setl :
    left (present [(0, 0x1234, 0x41)] 0x06000000 0xFF 0) 0 0x12FF 0x41 = true := by decide

-- CM12
theorem test_setl_range :
    faultedWith (present [(0, 0, 0)] 0x06000002 0xAB 0) 2 0x06000002#32 = true := by decide

-- CM14
theorem test_getl :
    answered (present [(0, 0xAB00, 0)] 0x07000001 0 0) 0xAB = true := by decide

-- CM16
theorem test_getl_range :
    faultedWith (present [(0, 0xAB00, 0)] 0x07000002 0 0) 2 0x07000002#32 = true := by decide

-- AC2
theorem test_add :
    left (present [(0, 0xFFFF, 0x40), (1, 0x0001, 0x08)] 0x10201000 0 0) 2 0x0000 0x49 = true := by decide

-- AS20
theorem test_add_unconstructed :
    faultedWith (present [(0, 5, 0)] 0x10201000 0 0) 3 0x10201000#32 = true := by decide

-- AS9
theorem test_adds :
    left (present [(0, 0xFFFE, 0)] 0x11100000 2 0) 1 0x0000 0x01 = true := by decide

-- AC3
theorem test_adds_destination_discarded :
    left (present [(0, 1, 0x20), (2, 9, 0x7F)] 0x11200000 1 0) 2 0x0002 0x20 = true := by decide

-- AS12
theorem test_sub :
    left (present [(0, 1, 0), (1, 2, 0)] 0x12201000 0 0) 2 0xFFFF 0x02 = true := by decide

-- AS13
theorem test_sub_borrow_ripples :
    left (present [(0, 0x0100, 0), (1, 1, 0)] 0x12201000 0 0) 2 0x00FF 0x00 = true := by decide

-- AS19
theorem test_subs :
    left (present [(0, 0, 0)] 0x13100000 0xFF 0) 1 0xFF01 0x02 = true := by decide

-- MU2
theorem test_mul :
    left (present [(0, 0x1234, 0), (1, 0x0010, 0)] 0x20201000 0 0) 2 0x2340 0x01 = true := by decide

-- MU7
theorem test_mul_in_place :
    left (present [(0, 0x00FF, 0)] 0x20000000 0 0) 0 0xFE01 0x00 = true := by decide

-- MU9
theorem test_muls :
    left (present [(0, 0x0102, 0)] 0x21100000 0xFF 0) 1 0x00FE 0x01 = true := by decide

-- DV17
theorem test_div :
    left (present [(0, 0xFFFF, 0x03), (1, 0xFFFE, 0x60)] 0x30201000 0 0) 2 0x0001 0x63 = true := by decide

-- DV9
theorem test_div_by_zero :
    faultedWith (present [(0, 0x1234, 1), (1, 0, 2), (2, 7, 0)] 0x30201000 0 0) 4 0x30201000#32 = true := by decide

-- DV7
theorem test_divs :
    left (present [(0, 0x1234, 0)] 0x31100000 0x57 0) 1 0x0035 0x00 = true := by decide

-- DV11
theorem test_divs_by_zero :
    faultedWith (present [(0, 0x1234, 0)] 0x31100000 0 0) 4 0x31100000#32 = true := by decide

-- DV4
theorem test_rem :
    left (present [(0, 5, 0), (1, 0x0100, 0)] 0x32201000 0 0) 2 0x0005 0x00 = true := by decide

-- DV8
theorem test_rems :
    left (present [(0, 0x1234, 0)] 0x33100000 0x57 0) 1 0x0031 0x00 = true := by decide

-- DV12
theorem test_rems_zero_by_zero :
    faultedWith (present [(0, 0, 0)] 0x33100000 0 0) 4 0x33100000#32 = true := by decide

-- SH3
theorem test_shl_negative :
    left (present [(0, 0x8001, 0)] 0x40100000 0 0xFFFFFFFF) 1 0x4000 0x40 = true := by decide

-- SH15
theorem test_shl_over_wide :
    left (present [(0, 0, 0)] 0x40100000 0 0x11) 1 0x0000 0x20 = true := by decide

-- SH21
theorem test_shr :
    left (present [(0, 0x8001, 0x03)] 0x41000000 0 0xF) 0 0x0001 0x43 = true := by decide

-- SH20
theorem test_shr_most_negative :
    left (present [(0, 0x8001, 0)] 0x41100000 0 0x80000000) 1 0x0000 0x20 = true := by decide

-- LG1
theorem test_and :
    left (present [(0, 0x0F0F, 1), (1, 0x00FF, 0x20)] 0x50201000 0 0) 2 0x000F 0x21 = true := by decide

-- LG2
theorem test_or :
    left (present [(0, 0x0F0F, 0), (1, 0x00FF, 0)] 0x51201000 0 0) 2 0x0FFF 0x00 = true := by decide

-- LG3
theorem test_xor :
    left (present [(0, 0x0F0F, 0), (1, 0x00FF, 0)] 0x52201000 0 0) 2 0x0FF0 0x00 = true := by decide

-- LG7
theorem test_xor_keeps_flags :
    left (present [(0, 0xA5C3, 2)] 0x52000000 0 0) 0 0x0000 0x02 = true := by decide

-- LG4
theorem test_not :
    left (present [(0, 0x0F0F, 0x40)] 0x53100000 0 0) 1 0xF0F0 0x40 = true := by decide

-- CP3
theorem test_cmp_ignores_flags :
    answered (present [(0, 0x1234, 0x7F), (1, 0x1234, 0)] 0x60001000 0 0) 1 = true := by decide

-- CP2
theorem test_cmp_less :
    answered (present [(0, 0x00FF, 0), (1, 0x0100, 0)] 0x60001000 0 0) 2 = true := by decide

-- CP7
theorem test_cmps_less :
    answered (present [(0, 0x64, 0)] 0x61000000 0xC8 0) 2 = true := by decide

-- CP8
theorem test_cmps_greater :
    answered (present [(0, 0x0100, 0)] 0x61000000 0xFF 0) 4 = true := by decide

-- FG3
theorem test_tstf :
    answered (present [(0, 5, 0x21)] 0x70000005 0 0) 1 = true := by decide

-- FG14
theorem test_tstf_range :
    faultedWith (present [(1, 5, 0)] 0x70010007 0 0) 2 0x70010007#32 = true := by decide

-- FG7
theorem test_setf :
    left (present [(1, 5, 1)] 0x71100004 0 0) 1 0x0005 0x11 = true := by decide

-- FG11
theorem test_clrf :
    left (present [(1, 5, 0x21)] 0x72100005 0 0) 1 0x0005 0x01 = true := by decide

-- FG13
theorem test_clrall :
    left (present [(1, 0xFFFF, 0x63)] 0x73100000 0 0) 1 0xFFFF 0x00 = true := by decide

-- FG6
theorem test_rdf :
    answered (present [(0, 5, 0x7F)] 0x74000000 0 0) 0x7F = true := by decide

-- FG17
theorem test_rdf_unconstructed :
    faultedWith (present [] 0x74010000 0 0) 3 0x74010000#32 = true := by decide

-- FP1
theorem test_priority_range_first :
    faultedWith (present [] 0x06300002 0xAB 0) 2 0x06300002#32 = true := by decide

-- FP5
theorem test_priority_illegal_first :
    faultedWith (present [] 0x0630F002 0 0) 1 0x0630F002#32 = true := by decide

-- P7: a halted block has no step but reset, and reset takes every value.
theorem test_halted_then_reset :
    (step { start [] 0 0 [.command ⟨0x74000000, 0, 0⟩] with status := ⟨true, .divideByZero, 0x32201000⟩ } matches
      .fault .halted) = true ∧
    (nextOf (step { start [(0, 0x15, 0x20)] 0 0 [.reset] with
      status := ⟨true, .divideByZero, 0x32201000⟩ })).status = Status.clear ∧
    (nextOf (step (start [(0, 0x15, 0x20)] 0 0 [.reset]))).constructed 0 = false := by
  decide

-- The host's two hooks, on `ONE V0` after reset (R102; the parameters of R6(a)).
theorem test_fetch_word :
    decodeTableWord 32 0x02000000 = some (.one 0) ∧
    (nextOf (step (State.reset.withFetchWord 32 0x02000000))).value 0 = 1 := by
  decide

/-! ### Witnesses: a concrete state and operands that meet each obligation's hypotheses -/

/-- `V0`, `V1` hold values, `V2` holds zero, every other register holds none. -/
def demo (a b l : Nat) (n : Amount) : State := start [(0, a, 0x21), (1, b, 0x40), (2, 0, 0)] l n []

/-- The same registers in the halted state, with the host's next inputs. -/
def stopped (inputs : List HostInput) : State :=
  { demo 5 3 0 0 with status := ⟨true, .divideByZero, 0x32201000⟩, inputs := inputs }

/-- The same registers, with one command presented. -/
def offered (w : CmdWord) (l : Nat) : State := { demo 5 3 0 0 with inputs := [.command ⟨w, l, 0⟩] }

theorem witness_DecodeOfEncode :
    (Instr.setl 15 4095).wf = true ∧ (Instr.clrf 9 7).wf = true ∧ (Instr.add 15 15 15).wf = true := by decide

theorem witness_EncodeOfDecode :
    decode 0x06F00FFF#32 = some (.setl 15 4095) ∧ decode 0x70000007#32 = some (.tstf 0 7) := by decide

/-- The hypotheses that most command rules share: a well-formed state with registers that hold a value
and one that holds none (ConstructorCommands, MovCommand, AndOrXorCommands, NotCommand,
ClrallCommand, RdfCommand, LimbwiseLogic, LimbwiseComparator). -/
theorem witness_wellFormed_constructed :
    (demo 5 3 2 0).wf = true ∧ (demo 5 3 2 0).constructed 0 = true ∧ (demo 5 3 2 0).constructed 1 = true ∧
    (demo 5 3 2 0).constructed 3 = false := by decide

/-- `idx = N - 1` and `idx = N`. -/
theorem witness_SetlCommand_GetlCommand :
    (demo 5 3 2 0).wf = true ∧ 1 < (demo 5 3 2 0).N ∧ (demo 5 3 2 0).N ≤ 2 ∧ 4095 < 4096 ∧
    (demo 5 3 2 0).constructed 0 = true ∧ (demo 5 3 2 0).constructed 3 = false := by decide

/-- The sum just below and at `2^T`. -/
theorem witness_AddCommand :
    (demo 0xFFFE 1 0 0).value 0 + (demo 0xFFFE 1 0 0).value 1 = 2 ^ (demo 0 0 0 0).T - 1 ∧
    (demo 0xFFFF 1 0 0).value 0 + (demo 0xFFFF 1 0 0).value 1 = 2 ^ (demo 0 0 0 0).T ∧
    (demo 0xFFFF 1 0 0).constructed 0 = true ∧ (demo 0xFFFF 1 0 0).constructed 1 = true ∧
    (demo 0xFFFF 1 0 0).constructed 3 = false := by decide

theorem witness_AddsCommand :
    (demo 0xFFFE 0 1 0).value 0 + (demo 0xFFFE 0 1 0).limbIn = 2 ^ 16 - 1 ∧
    (demo 0xFF01 0 255 0).value 0 + (demo 0xFF01 0 255 0).limbIn = 2 ^ 16 ∧ (demo 0 0 0 0).T = 16 ∧
    (demo 0xFFFE 0 1 0).constructed 0 = true ∧ (demo 0xFFFE 0 1 0).constructed 3 = false := by decide

/-- Equal operands, and a difference of -1. -/
theorem witness_SubCommand :
    (demo 7 7 0 0).wf = true ∧ (demo 7 7 0 0).value 1 ≤ (demo 7 7 0 0).value 0 ∧
    (demo 6 7 0 0).wf = true ∧ (demo 6 7 0 0).value 0 < (demo 6 7 0 0).value 1 ∧
    (demo 7 7 0 0).constructed 0 = true ∧ (demo 7 7 0 0).constructed 1 = true ∧
    (demo 7 7 0 0).constructed 3 = false := by decide

theorem witness_SubsCommand :
    (demo 7 0 7 0).wf = true ∧ (demo 7 0 7 0).limbIn ≤ (demo 7 0 7 0).value 0 ∧
    (demo 6 0 7 0).wf = true ∧ (demo 6 0 7 0).value 0 < (demo 6 0 7 0).limbIn ∧
    (demo 7 0 7 0).constructed 0 = true ∧ (demo 7 0 7 0).constructed 3 = false := by decide

theorem witness_MulCommand :
    (demo 0xFF 0x101 0 0).value 0 * (demo 0xFF 0x101 0 0).value 1 = 2 ^ 16 - 1 ∧
    (demo 0x100 0x100 0 0).value 0 * (demo 0x100 0x100 0 0).value 1 = 2 ^ 16 ∧
    (demo 0xFF 0x101 0 0).constructed 0 = true ∧ (demo 0xFF 0x101 0 0).constructed 1 = true ∧
    (demo 0xFF 0x101 0 0).constructed 3 = false := by decide

theorem witness_MulsCommand :
    (demo 0x101 0 0xFF 0).value 0 * (demo 0x101 0 0xFF 0).limbIn = 2 ^ 16 - 1 ∧
    (demo 0x8000 0 2 0).value 0 * (demo 0x8000 0 2 0).limbIn = 2 ^ 16 ∧
    (demo 0x8000 0 2 0).constructed 0 = true ∧ (demo 0x8000 0 2 0).constructed 3 = false := by decide

/-- Divisors 0 and 1. -/
theorem witness_DivCommand_RemCommand :
    (demo 9 1 0 0).wf = true ∧ (demo 9 1 0 0).value 2 = 0 ∧ (demo 9 1 0 0).value 1 ≠ 0 ∧
    (demo 9 1 0 0).constructed 0 = true ∧ (demo 9 1 0 0).constructed 1 = true ∧
    (demo 9 1 0 0).constructed 2 = true ∧ (demo 9 1 0 0).constructed 3 = false := by decide

theorem witness_DivsCommand_RemsCommand :
    (demo 9 0 0 0).wf = true ∧ (demo 9 0 0 0).limbIn = 0 ∧ (demo 9 0 1 0).wf = true ∧
    (demo 9 0 1 0).limbIn ≠ 0 ∧ (demo 9 0 1 0).constructed 0 = true ∧
    (demo 9 0 1 0).constructed 3 = false := by decide

/-- Amounts 0, T - 1, T, -1, -(T - 1), -T and -2^31. -/
theorem witness_ShlCommand_ShrCommand :
    (demo 1 0 0 0).wf = true ∧ (demo 1 0 0 0).constructed 0 = true ∧
    (demo 1 0 0 0).constructed 3 = false ∧ (demo 1 0 0 0).T = 16 ∧
    (demo 1 0 0 0).port.amtIn.toInt = ((0 : Nat) : Int) ∧ (demo 1 0 0 15).port.amtIn.toInt = ((15 : Nat) : Int) ∧
    (demo 1 0 0 16).port.amtIn.toInt = ((16 : Nat) : Int) ∧
    (demo 1 0 0 0xFFFFFFFF).port.amtIn.toInt = -((1 : Nat) : Int) ∧
    (demo 1 0 0 0xFFFFFFF1).port.amtIn.toInt = -((15 : Nat) : Int) ∧
    (demo 1 0 0 0xFFFFFFF0).port.amtIn.toInt = -((16 : Nat) : Int) ∧
    (demo 1 0 0 0x80000000).port.amtIn.toInt = -((2147483648 : Nat) : Int) := by decide

theorem witness_CmpCommand_CmpsCommand :
    (demo 5 5 5 0).value 0 = (demo 5 5 5 0).value 1 ∧ (demo 4 5 5 0).value 0 < (demo 4 5 5 0).value 1 ∧
    (demo 5 4 4 0).value 1 < (demo 5 4 4 0).value 0 ∧ (demo 5 5 5 0).value 0 = (demo 5 5 5 0).limbIn ∧
    (demo 4 5 5 0).value 0 < (demo 4 5 5 0).limbIn ∧ (demo 5 4 4 0).limbIn < (demo 5 4 4 0).value 0 ∧
    (demo 5 5 5 0).constructed 0 = true ∧ (demo 5 5 5 0).constructed 1 = true ∧
    (demo 5 5 5 0).constructed 3 = false := by decide

/-- The flag indices 6 and 7. -/
theorem witness_TstfCommand_SetfClrfCommands :
    7 < 8 ∧ 6 < 7 ∧ (demo 5 3 2 0).constructed 0 = true ∧ (demo 5 3 2 0).constructed 3 = false := by decide

theorem witness_ResetInputTaken :
    (stopped [.reset]).inputs = .reset :: [] ∧ (stopped [.reset]).status.halted = true := by decide

theorem witness_StepRunsDecodedCommand :
    (offered 0x10201000 0).inputs = .command ⟨0x10201000, 0, 0⟩ :: [] ∧
    (offered 0x10201000 0).status.halted = false ∧ decode 0x10201000#32 = some (.add 2 0 1) := by decide

theorem witness_HaltedBlockOnlyResets :
    (stopped []).status.halted = true ∧ (stopped []).inputs = [] ∧
    (stopped [.command ⟨0x74000000, 0, 0⟩]).inputs = .command ⟨0x74000000, 0, 0⟩ :: [] ∧
    step (stopped [.reset]) = .next (nextOf (step (stopped [.reset]))) := ⟨by decide, by decide, by decide, rfl⟩

theorem witness_IdleBlockUnchanged :
    (demo 5 3 0 0).inputs = [] ∧ (demo 5 3 0 0).status.halted = false := by decide

/-- An illegal word, and a command with each cause and with none. -/
theorem witness_FirstCauseReported :
    decode 0x10201001#32 = none ∧ decode 0x06000002#32 = some (.setl 0 2) ∧
    Instr.causeIn (.setl 0 2) (demo 5 3 0 0) = .operandRange ∧
    Instr.causeIn (.div 3 3 2) (demo 5 3 0 0) = .unconstructed ∧
    Instr.causeIn (.div 3 0 2) (demo 5 3 0 0) = .divideByZero ∧
    Instr.causeIn (.div 3 0 1) (demo 5 3 0 0) = .noFault ∧
    (offered 0x30302000 0).inputs = .command ⟨0x30302000, 0, 0⟩ :: [] ∧
    (offered 0x30302000 0).status.halted = false := by decide

/-- `DIV V3, V0, V2` with zero in `V2`. -/
theorem witness_FaultsArePrecise :
    (offered 0x30302000 0).inputs = .command ⟨0x30302000, 0, 0⟩ :: [] ∧
    (offered 0x30302000 0).status.halted = false ∧
    (nextOf (step (offered 0x30302000 0))).status.halted = true ∧
    step (offered 0x30302000 0) = .next (nextOf (step (offered 0x30302000 0))) := ⟨by decide, by decide, by decide, rfl⟩

theorem witness_OneResponsePerCommand :
    (offered 0x61000000 9).inputs = .command ⟨0x61000000, 9, 0⟩ :: [] ∧
    (offered 0x61000000 9).status.halted = false ∧ decode 0x10201000#32 = some (.add 2 0 1) ∧
    Instr.returnsData (.add 2 0 1) = false ∧ Instr.returnsData (.cmps 0) = true := by decide

theorem witness_ResetIsWellFormed :
    Config.wf ⟨.w8, 1⟩ = true ∧ Config.wf ⟨.w128, 4096⟩ = true := by decide

theorem witness_StepKeepsWellFormed_ParametersNeverChange :
    (offered 0x10201000 0).wf = true ∧
    step (offered 0x10201000 0) = .next (nextOf (step (offered 0x10201000 0))) := ⟨by decide, rfl⟩

theorem witness_OnlyTheDestinationChanges :
    exec (.add 2 0 1) (demo 5 3 0 0) = .next (nextOf (exec (.add 2 0 1) (demo 5 3 0 0))) ∧
    Instr.writesTo (.add 2 0 1) ≠ some 0 ∧ Instr.writesTo (.cmp 0 1) ≠ some 0 ∧
    (demo 5 3 0 0).constructed 2 = true := ⟨rfl, by decide, by decide, by decide⟩

/-- A sum that newly sets OVERFLOW and inherits RIGHT_CARRY. -/
theorem witness_FlagsNeverCleared_FlagsNewlySet :
    exec (.add 2 0 1) (demo 0xFFFF 1 0 0) = .next (nextOf (exec (.add 2 0 1) (demo 0xFFFF 1 0 0))) ∧
    Instr.causeIn (.add 2 0 1) (demo 0xFFFF 1 0 0) = .noFault ∧ Instr.resetsFlags (.add 2 0 1) = false ∧
    1 ∈ Instr.reads (.add 2 0 1) ∧ Instr.writesTo (.add 2 0 1) = some 2 ∧
    ((nextOf (exec (.add 2 0 1) (demo 0xFFFF 1 0 0))).flags 2).getLsbD Flag.overflow.index = true ∧
    ((nextOf (exec (.add 2 0 1) (demo 0xFFFF 1 0 0))).flags 2).getLsbD Flag.rightCarry.index = true := ⟨rfl, by decide, by decide, by decide, by decide, by decide, by decide⟩

theorem witness_ThreeFlagsOnlyBySetf :
    exec (.shl 2 0) (demo 0xFFFF 1 0 1) = .next (nextOf (exec (.shl 2 0) (demo 0xFFFF 1 0 1))) ∧
    (∀ (rd : Reg) (f : Nat), Instr.shl 2 0 ≠ .setf rd f) ∧
    ∀ r : Reg, (demo 0xFFFF 1 0 1).constructed r = true →
      ((demo 0xFFFF 1 0 1).flags r).getLsbD Flag.infinity.index = false := ⟨rfl, fun _ _ h => Instr.noConfusion h, by decide⟩

theorem witness_FlagsNeverEnterResults :
    (demo 5 3 0 0).sameButFlags ((demo 5 3 0 0).setFlags 0 0x7F) ∧
    Instr.returnsFlags (.add 2 0 1) = false ∧
    ((demo 5 3 0 0).setFlags 0 0x7F).responses = (demo 5 3 0 0).responses ∧
    exec (.add 2 0 1) (demo 5 3 0 0) = .next (nextOf (exec (.add 2 0 1) (demo 5 3 0 0))) ∧
    exec (.add 2 0 1) ((demo 5 3 0 0).setFlags 0 0x7F) =
      .next (nextOf (exec (.add 2 0 1) ((demo 5 3 0 0).setFlags 0 0x7F))) := ⟨⟨⟨rfl, rfl, rfl, rfl⟩, by decide⟩, by decide, rfl, rfl, rfl⟩

theorem witness_UnusedPortsIgnored :
    exec (.add 2 0 1) (demo 5 3 0 0) = .next (nextOf (exec (.add 2 0 1) (demo 5 3 0 0))) ∧
    Instr.usesLimbIn (.add 2 0 1) = false ∧ Instr.usesAmtIn (.add 2 0 1) = false ∧
    Instr.usesAmtIn (.adds 2 0) = false ∧ Instr.usesLimbIn (.shl 2 0) = false := ⟨rfl, by decide, by decide, by decide, by decide⟩

theorem witness_UnconstructedContentsUnobservable :
    (demo 5 3 0 0).sameValues ((demo 5 3 0 0).setReg 9 ⟨false, [1, 2], 0x7F⟩) ∧
    ((demo 5 3 0 0).setReg 9 ⟨false, [1, 2], 0x7F⟩ ≠ demo 5 3 0 0) ∧
    Host.Core.run Sys2Proof.core 1 (demo 5 3 0 0) = .next (demo 5 3 0 0) ∧
    Host.Core.run Sys2Proof.core 1 (stopped []) = .fault .halted := ⟨⟨⟨rfl, rfl, rfl, rfl⟩, rfl, by decide⟩, by decide, rfl, rfl⟩

theorem witness_AdditionLaws :
    (demo 5 0 0 0).wf = true ∧ (1 : Reg) ≠ 2 ∧ (demo 5 0 0 0).constructed 0 = true ∧
    (demo 5 0 0 0).constructed 1 = true ∧ (demo 5 0 0 0).constructed 2 = true ∧
    (demo 5 0 0 0).value 2 = 0 ∧ (demo 5 0 0 0).flags 2 = 0#7 ∧ (demo 5 0 0 0).limbIn = 0 ∧
    exec (.add 2 0 1) (demo 5 0 0 0) = .next (nextOf (exec (.add 2 0 1) (demo 5 0 0 0))) ∧
    exec (.sub 2 2 1) (nextOf (exec (.add 2 0 1) (demo 5 0 0 0))) =
      .next (nextOf (exec (.sub 2 2 1) (nextOf (exec (.add 2 0 1) (demo 5 0 0 0))))) ∧
    exec (.add 3 0 2) (demo 5 0 0 0) = .next (nextOf (exec (.add 3 0 2) (demo 5 0 0 0))) ∧
    exec (.adds 3 0) (demo 5 0 0 0) = .next (nextOf (exec (.adds 3 0) (demo 5 0 0 0))) ∧
    exec (.subs 3 3) (nextOf (exec (.adds 3 0) (demo 5 0 0 0))) =
      .next (nextOf (exec (.subs 3 3) (nextOf (exec (.adds 3 0) (demo 5 0 0 0))))) := by
  refine ⟨by decide, by decide, by decide, by decide, by decide, by decide, by decide, by decide, rfl, rfl, rfl,
    rfl, rfl⟩

/-- P4: `a = 0xFEDC`, `b = 0x0123`, with `q = V4`, `r = V5`, `p = V6`. -/
theorem witness_DivisionIdentity : ∃ s₁ s₂ s₃ s₄ : State,
    (demo 0xFEDC 0x0123 0 0).wf = true ∧ (demo 0xFEDC 0x0123 0 0).value 1 ≠ 0 ∧
    (demo 0xFEDC 0x0123 0 0).constructed 0 = true ∧ (demo 0xFEDC 0x0123 0 0).constructed 1 = true ∧
    exec (.div 4 0 1) (demo 0xFEDC 0x0123 0 0) = .next s₁ ∧ exec (.rem 5 0 1) s₁ = .next s₂ ∧
    exec (.mul 6 4 1) s₂ = .next s₃ ∧ exec (.add 6 6 5) s₃ = .next s₄ :=
  ⟨_, _, _, _, by decide, by decide, by decide, by decide, rfl, rfl, rfl, rfl⟩

/-- P5's amount, 12, and the largest amount below `T`. -/
theorem witness_ShiftRoundTrip : ∃ t u t' u' : State,
    (demo 0x0123 0 0 12).wf = true ∧ (demo 0x0123 0 0 12).constructed 1 = true ∧
    (demo 0x0123 0 0 12).port.amtIn.toInt = ((12 : Nat) : Int) ∧ 12 < (demo 0x0123 0 0 12).T ∧
    (demo 0x0123 0 0 15).port.amtIn.toInt = ((15 : Nat) : Int) ∧ 15 < (demo 0x0123 0 0 15).T ∧
    ((demo 0x0123 0 0 12).flags 1).getLsbD 5 = false ∧ ((demo 0x0123 0 0 12).flags 0).getLsbD 6 = false ∧
    exec (.shl 3 1) (demo 0x0123 0 0 12) = .next t ∧ exec (.shr 3 3) t = .next u ∧
    exec (.shr 3 0) (demo 0x0123 0 0 12) = .next t' ∧ exec (.shl 3 3) t' = .next u' :=
  ⟨_, _, _, _, by decide, by decide, by decide, by decide, by decide, by decide, by decide, by decide, rfl, rfl,
    rfl, rfl⟩

/-- The amounts 4 and -2^31. -/
theorem witness_ShiftDirectionsMirror : ∃ t u t' u' : State,
    (demo 5 3 0 4).wf = true ∧ (demo 5 3 0 4).port.amtIn ≠ 0x80000000#32 ∧
    exec (.shr 3 0) (demo 5 3 0 4) = .next t ∧
    exec (.shl 3 0) ((demo 5 3 0 4).withAmtIn (-(demo 5 3 0 4).port.amtIn)) = .next u ∧
    (demo 5 3 0 0x80000000).wf = true ∧ (demo 5 3 0 0x80000000).constructed 0 = true ∧
    (demo 5 3 0 0x80000000).port.amtIn = 0x80000000#32 ∧
    exec (.shr 3 0) (demo 5 3 0 0x80000000) = .next t' ∧
    exec (.shl 3 0) (demo 5 3 0 0x80000000) = .next u' :=
  ⟨_, _, _, _, by decide, by decide, rfl, rfl, by decide, by decide, by decide, rfl, rfl⟩

theorem witness_SingleLimbForms :
    (start [(0, 9, 0x21), (2, 5, 0)] 5 0 []).constructed 2 = true ∧
    (start [(0, 9, 0x21), (2, 5, 0)] 5 0 []).value 2 = (start [(0, 9, 0x21), (2, 5, 0)] 5 0 []).limbIn ∧
    (start [(0, 9, 0x21), (2, 5, 0)] 5 0 []).flags 2 = 0#7 := by decide

/-- RippleCarryAdder, RippleBorrowSubtractor, SchoolbookMultiplier, DividerLoops, LimbShifter,
LimbwiseLogic, LimbwiseComparator. -/
theorem witness_limb_level_loops :
    (demo 0xFFFF 1 255 15).wf = true ∧ (demo 0xFFFF 1 255 15).constructed 0 = true ∧
    (demo 0xFFFF 1 255 15).constructed 1 = true ∧ (demo 0xFFFF 1 255 15).value 1 ≠ 0 ∧
    (demo 0xFFFF 1 255 15).limbIn ≠ 0 ∧
    (demo 0xFFFF 1 255 15).port.amtIn.toInt = ((15 : Nat) : Int) ∧ 15 < (demo 0xFFFF 1 255 15).T := by decide

end Sys2Proof.Tests
end

section
/-! PROOFS. What one step of the machine can do (`step_transition`), said once, and the two invariants
every step keeps: the structural parameters (R4) and well-formedness (R4, R21, R32, R78). -/

namespace Sys2Proof.Machine

/-! ### What a step can do -/

/-- The four ways a step reaches a next state: a reset (R260), an accepted word that is no command
(R231), an accepted command performed (R79), or nothing presented to a block that is not halted
(R244). -/
inductive Transition (s : State) : State → Prop where
  | reset {rest : List HostInput} (hin : s.inputs = .reset :: rest) :
      Transition s (s.takeReset rest)
  | illegal {c : Command} {rest : List HostInput} (hin : s.inputs = .command c :: rest)
      (hrun : s.status.halted = false) (hdec : decode c.cmd = none) :
      Transition s ((s.accept c rest).raiseFault .illegalCommand)
  | command {c : Command} {rest : List HostInput} {i : Instr} {t : State}
      (hin : s.inputs = .command c :: rest) (hrun : s.status.halted = false)
      (hdec : decode c.cmd = some i) (hexec : exec i (s.accept c rest) = .next t) :
      Transition s t
  | idle (hin : s.inputs = []) (hrun : s.status.halted = false) : Transition s s

theorem State.cmdReady_iff {s : State} : s.cmdReady = true ↔ s.status.halted = false := by
  simp [State.cmdReady]

/-- Every step that answers a next state is one of the four transitions. -/
theorem step_transition {s t : State} (h : step s = .next t) : Transition s t := by
  unfold step at h
  split at h
  case h_1 rest hin =>
    cases h
    exact .reset hin
  case h_2 c rest hin =>
    split at h
    case isTrue hready =>
      have hrun := State.cmdReady_iff.1 hready
      split at h
      case h_1 hdec =>
        cases h
        exact .illegal hin hrun hdec
      case h_2 i hdec => exact .command hin hrun hdec h
    case isFalse => cases h
  case h_3 hin =>
    split at h
    case isTrue hready =>
      cases h
      exact .idle hin (State.cmdReady_iff.1 hready)
    case isFalse => cases h

/-- The shape of a next state that a command has answered. -/
theorem shape_of_exec {i : Instr} {s t : State} (h : exec i s = .next t) :
    Shape s i.writesTo (.next t) := h ▸ exec_shape i s

/-! ### The structural parameters -/

theorem Shape.cfg_eq {s t : State} {w : Option Reg} (h : Shape s w (.next t)) : t.cfg = s.cfg := by
  cases h with
  | fault | value | limb | flags | answer => rfl

theorem exec_cfg {i : Instr} {s t : State} (h : exec i s = .next t) : t.cfg = s.cfg :=
  (shape_of_exec h).cfg_eq

theorem Transition.cfg_eq {s t : State} (h : Transition s t) : t.cfg = s.cfg := by
  cases h with
  | reset => rfl
  | illegal => rfl
  | command _ _ _ hexec => exact (exec_cfg hexec).trans (State.accept_cfg _ _ _)
  | idle => rfl

/-! ### Well-formedness -/

/-- Of the next states of a command, a limb written comes from the `W`-bit port (R72), and a response
is 0 or fits the response port by the shape itself (R78). -/
theorem Shape.wf {s t : State} {w : Option Reg} (h : Shape s w (.next t)) (hs : s.wf = true) :
    t.wf = true := by
  have hzero : 0 < 2 ^ s.cfg.W := Nat.two_pow_pos _
  cases h with
  | fault c hc => exact State.raiseFault_wf hs hc
  | value rd x fl => exact State.respond_wf (State.dst_wf hs rd x fl) hzero
  | limb rd k _ => exact State.respond_wf (State.setLimb_wf hs rd k (limbIn_lt s)) hzero
  | flags rd fl => exact State.respond_wf (State.setFlags_wf hs rd fl) hzero
  | answer d hd => exact State.respond_wf hs (hd hs)

theorem exec_wf {i : Instr} {s t : State} (hs : s.wf = true) (h : exec i s = .next t) :
    t.wf = true := (shape_of_exec h).wf hs

theorem Transition.wf {s t : State} (h : Transition s t) (hs : s.wf = true) : t.wf = true := by
  cases h with
  | reset => exact State.takeReset_wf hs _
  | illegal => exact State.raiseFault_wf (State.accept_wf hs _ _) (by decide)
  | command _ _ _ hexec => exact exec_wf (State.accept_wf hs _ _) hexec
  | idle => exact hs

/-! ### The obligations -/

/-- Settles O38: each of a step's four transitions keeps well-formedness, and a command's next state
keeps it by its shape. -/
theorem stepKeepsWellFormed : Obligations.StepKeepsWellFormed :=
  fun _ _ hs h => (step_transition h).wf hs

/-- Settles O39: no transition of a step writes the parameters. -/
theorem parametersNeverChange : Obligations.ParametersNeverChange :=
  fun _ _ h => (step_transition h).cfg_eq

end Sys2Proof.Machine
end

section
/-! PROOFS. Two runs side by side: a relation between states that every shared operation respects
(`Simulation`) is respected by every command (`Simulation.related_exec`). The relations at the end say
what a command cannot depend on: the contents of registers that hold no value (R41), and the flags
(R29). -/

namespace Sys2Proof.Machine

/-! ### Related results -/

/-- Two results that stop alike, or whose next states are related by `R`. -/
inductive Related (R : State → State → Prop) : Result → Result → Prop where
  | next {t t' : State} (h : R t t') : Related R (.next t) (.next t')
  | fault (e : Fault) : Related R (.fault e) (.fault e)

theorem Related.of_next {R : State → State → Prop} {t t' : State}
    (h : Related R (.next t) (.next t')) : R t t' := by
  cases h with
  | next h => exact h

theorem Related.exists_next {R : State → State → Prop} {t : State} {r' : Result}
    (h : Related R (.next t) r') : ∃ t', r' = .next t' ∧ R t t' := by
  cases h with
  | next h => exact ⟨_, rfl, h⟩

theorem Related.eq_fault {R : State → State → Prop} {e : Fault} {r' : Result}
    (h : Related R (.fault e) r') : r' = .fault e := by
  cases h with
  | fault => rfl

/-! ### Relations that every shared operation respects -/

/-- Both registers hold a value, the same number, and if `strict` with the same flags. -/
structure SameNumber (strict : Prop) (r r' : ValueReg) : Prop where
  left : r.v = true
  right : r'.v = true
  limbs : r'.limbs = r.limbs
  flags : strict → r'.flags = r.flags

/-- A relation that lets a command see the same parameters, ports, constructed bits, and numbers held,
and if `strict` the same flags held; and that survives a fault, an equal response, and the writing of
the same number. -/
structure Simulation (strict : Prop) (R : State → State → Prop) : Prop where
  control {s s' : State} (h : R s s') : s.sameControl s'
  constructed {s s' : State} (h : R s s') (r : Reg) : s'.constructed r = s.constructed r
  reg {s s' : State} (h : R s s') {r : Reg} (hr : s.constructed r = true) :
    SameNumber strict (s.reg r) (s'.reg r)
  raiseFault {s s' : State} (h : R s s') (c : Cause) : R (s.raiseFault c) (s'.raiseFault c)
  respond {s s' : State} (h : R s s') (d : Nat) : R (s.respond d) (s'.respond d)
  setReg {s s' : State} (h : R s s') (rd : Reg) {v v' : ValueReg} (hv : SameNumber strict v v') :
    R (s.setReg rd v) (s'.setReg rd v')

namespace Simulation

section
variable {strict : Prop} {R : State → State → Prop} {s s' : State}
  (hR : Simulation strict R) (h : R s s')
include hR h

theorem W_eq : s'.W = s.W := by rw [State.W, State.W, (hR.control h).1]

theorem N_eq : s'.N = s.N := by rw [State.N, State.N, (hR.control h).1]

theorem T_eq : s'.T = s.T := by rw [State.T, State.T, (hR.control h).1]

theorem port_eq : s'.port = s.port :=
  have ⟨_, _, hport, _⟩ := hR.control h
  hport

theorem limbIn_eq : s'.limbIn = s.limbIn := by
  rw [State.limbIn, State.limbIn, hR.port_eq h, hR.W_eq h]

theorem amount_eq : s'.amount = s.amount := by rw [State.amount, State.amount, hR.port_eq h]

theorem value_eq {r : Reg} (hr : s.constructed r = true) : s'.value r = s.value r := by
  rw [State.value, State.value, hR.W_eq h, (hR.reg h hr).limbs]

theorem limb_eq {r : Reg} (hr : s.constructed r = true) (k : Nat) : s'.limb r k = s.limb r k := by
  rw [State.limb, State.limb, (hR.reg h hr).limbs]

theorem flags_eq {r : Reg} (hr : s.constructed r = true) : strict → s'.flags r = s.flags r :=
  (hR.reg h hr).flags

theorem setLimb {rd : Reg} (hrd : s.constructed rd = true) (k l : Nat) :
    R (s.setLimb rd k l) (s'.setLimb rd k l) := by
  obtain ⟨hv, hv', hlimbs, hflags⟩ := hR.reg h hrd
  exact hR.setReg h rd ⟨hv, hv', congrArg (·.set k l) hlimbs, hflags⟩

theorem setFlags {rd : Reg} (hrd : s.constructed rd = true) {fl fl' : Flags}
    (hfl : strict → fl' = fl) : R (s.setFlags rd fl) (s'.setFlags rd fl') := by
  obtain ⟨hv, hv', hlimbs, -⟩ := hR.reg h hrd
  exact hR.setReg h rd ⟨hv, hv', hlimbs, hfl⟩

/-! ### The operand checks and the answers -/

theorem related_faulted (c : Cause) : Related R (faulted c s) (faulted c s') :=
  .next (hR.raiseFault h c)

theorem related_answers (d : Nat) : Related R (answers d s) (answers d s') := .next (hR.respond h d)

theorem related_writes (rd : Reg) (x : Nat) {fl fl' : Flags} (hfl : strict → fl' = fl) :
    Related R (writes rd x fl s) (writes rd x fl' s') := by
  have hlimbs : limbsOf s'.W s'.N x = limbsOf s.W s.N x := by rw [hR.W_eq h, hR.N_eq h]
  exact .next (hR.respond (hR.setReg h rd ⟨rfl, rfl, hlimbs, hfl⟩) 0)

theorem related_needs {ra : Reg} {go go' : Result}
    (hgo : s.constructed ra = true → Related R go go') :
    Related R (needs ra s go) (needs ra s' go') := by
  have hc := hR.constructed h ra
  cases hra : s.constructed ra with
  | true =>
    rw [needs_of_constructed hra, needs_of_constructed (hc.trans hra)]
    exact hgo hra
  | false =>
    rw [needs_of_unconstructed hra, needs_of_unconstructed (hc.trans hra)]
    exact hR.related_faulted h _

theorem related_withSource {ra : Reg} {go go' : Nat → Flags → Result}
    (hgo : ∀ a fa fa', (strict → fa' = fa) → Related R (go a fa) (go' a fa')) :
    Related R (withSource ra s go) (withSource ra s' go') :=
  hR.related_needs h fun hra => by
    rw [hR.value_eq h hra]
    exact hgo _ _ _ (hR.flags_eq h hra)

theorem related_withSources {ra rb : Reg} {go go' : Nat → Flags → Nat → Flags → Result}
    (hgo : ∀ a fa fa' b fb fb', (strict → fa' = fa) → (strict → fb' = fb) →
      Related R (go a fa b fb) (go' a fa' b fb')) :
    Related R (withSources ra rb s go) (withSources ra rb s' go') :=
  hR.related_needs h fun hra => hR.related_needs h fun hrb => by
    rw [hR.value_eq h hra, hR.value_eq h hrb]
    exact hgo _ _ _ _ _ _ (hR.flags_eq h hra) (hR.flags_eq h hrb)

theorem related_withLimbIndex {idx : Nat} {go go' : Result} (hgo : Related R go go') :
    Related R (withLimbIndex idx s go) (withLimbIndex idx s' go') := by
  unfold withLimbIndex
  rw [hR.N_eq h]
  split
  · exact hR.related_faulted h _
  · exact hgo

theorem related_withFlagIndex {f : Nat} {go go' : Result} (hgo : Related R go go') :
    Related R (withFlagIndex f s go) (withFlagIndex f s' go') := by
  unfold withFlagIndex
  split
  · exact hR.related_faulted h _
  · exact hgo

theorem related_withDivisor {b : Nat} {go go' : Result} (hgo : Related R go go') :
    Related R (withDivisor b s go) (withDivisor b s' go') := by
  unfold withDivisor
  split
  · exact hR.related_faulted h _
  · exact hgo

/-! ### The commands that accumulate flags -/

/-- A two-operand command that writes `x a b`, with the newly detected flags `new a b`. -/
theorem related_accumulates₂ {ra rb : Reg} (rd : Reg) (x : Nat → Nat → Nat)
    (new : Nat → Nat → Flags) :
    Related R
      (withSources ra rb s fun a fa b fb => writes rd (x a b) (accumulate₂ fa fb (new a b)) s)
      (withSources ra rb s' fun a fa b fb => writes rd (x a b) (accumulate₂ fa fb (new a b)) s') :=
  hR.related_withSources h fun _ _ _ _ _ _ ha hb =>
    hR.related_writes h _ _ fun hs => by rw [ha hs, hb hs]

/-- A one-operand command that writes `x a`, with the newly detected flags `new a`. -/
theorem related_accumulates {ra : Reg} (rd : Reg) (x : Nat → Nat) (new : Nat → Flags) :
    Related R
      (withSource ra s fun a fa => writes rd (x a) (accumulate fa (new a)) s)
      (withSource ra s' fun a fa => writes rd (x a) (accumulate fa (new a)) s') :=
  hR.related_withSource h fun _ _ _ ha => hR.related_writes h _ _ fun hs => by rw [ha hs]

/-- A two-operand division that writes `x a b`. -/
theorem related_divides₂ {ra rb : Reg} (rd : Reg) (x : Nat → Nat → Nat) :
    Related R
      (withSources ra rb s fun a fa b fb =>
        withDivisor b s (writes rd (x a b) (accumulate₂ fa fb 0) s))
      (withSources ra rb s' fun a fa b fb =>
        withDivisor b s' (writes rd (x a b) (accumulate₂ fa fb 0) s')) :=
  hR.related_withSources h fun _ _ _ _ _ _ ha hb =>
    hR.related_withDivisor h (hR.related_writes h _ _ fun hs => by rw [ha hs, hb hs])

/-- A division by the limb `b` that writes `x a`. -/
theorem related_divides {ra : Reg} (rd : Reg) (b : Nat) (x : Nat → Nat) :
    Related R
      (withSource ra s fun a fa => withDivisor b s (writes rd (x a) (accumulate fa 0) s))
      (withSource ra s' fun a fa => withDivisor b s' (writes rd (x a) (accumulate fa 0) s')) :=
  hR.related_withSource h fun _ _ _ ha =>
    hR.related_withDivisor h (hR.related_writes h _ _ fun hs => by rw [ha hs])

/-- The answers of TSTF and RDF: a function `g` of the flags of one register. -/
theorem related_answersFlags {ra : Reg} (g : Flags → Nat)
    (hg : ∀ {fl fl' : Flags}, (strict → fl' = fl) → R (s.respond (g fl)) (s'.respond (g fl'))) :
    Related R (needs ra s (answers (g (s.flags ra)) s))
      (needs ra s' (answers (g (s'.flags ra)) s')) :=
  hR.related_needs h fun hra => .next (hg (hR.flags_eq h hra))

/-- SETF, CLRF and CLRALL: the flags of one register become a function `g` of what they were. -/
theorem related_updatesFlags {rd : Reg} (g : Flags → Flags) :
    Related R (needs rd s (.next ((s.setFlags rd (g (s.flags rd))).respond 0)))
      (needs rd s' (.next ((s'.setFlags rd (g (s'.flags rd))).respond 0))) :=
  hR.related_needs h fun hrd =>
    .next (hR.respond (hR.setFlags h hrd fun hs => by rw [hR.flags_eq h hrd hs]) 0)

/-- Every command respects a simulation, if the answers of TSTF and RDF do. -/
theorem related_exec (i : Instr)
    (hanswer : i.returnsFlags = true → ∀ (g : Flags → Nat) {fl fl' : Flags},
      (strict → fl' = fl) → R (s.respond (g fl)) (s'.respond (g fl'))) :
    Related R (exec i s) (exec i s') := by
  have hT := hR.T_eq h
  have hlimb := hR.limbIn_eq h
  have hamount := hR.amount_eq h
  cases i with
  | zero rd => exact hR.related_writes h rd _ fun _ => rfl
  | one rd => exact hR.related_writes h rd _ fun _ => rfl
  | max rd =>
    simp only [exec, execMax, hT]
    exact hR.related_writes h rd _ fun _ => rfl
  | fromw rd =>
    simp only [exec, execFromw, hlimb]
    exact hR.related_writes h rd _ fun _ => rfl
  | mov rd ra => exact hR.related_withSource h fun a _ _ ha => hR.related_writes h rd a ha
  | setl rd idx =>
    simp only [exec, execSetl, hlimb]
    exact hR.related_withLimbIndex h (hR.related_needs h fun hrd =>
      .next (hR.respond (hR.setLimb h hrd _ _) 0))
  | getl ra idx =>
    refine hR.related_withLimbIndex h (hR.related_needs h fun hra => ?_)
    rw [hR.limb_eq h hra]
    exact hR.related_answers h _
  | add rd ra rb | sub rd ra rb | mul rd ra rb =>
    simp only [exec, execAdd, execSub, execMul, hT]
    exact hR.related_accumulates₂ h rd _ _
  | adds rd ra | subs rd ra | muls rd ra =>
    simp only [exec, execAdds, execSubs, execMuls, hT, hlimb]
    exact hR.related_accumulates h rd _ _
  | div rd ra rb => exact hR.related_divides₂ h rd (· / ·)
  | rem rd ra rb => exact hR.related_divides₂ h rd (· % ·)
  | divs rd ra | rems rd ra =>
    simp only [exec, execDivs, execRems, hlimb]
    exact hR.related_divides h rd _ _
  | shl rd ra | shr rd ra =>
    simp only [exec, execShl, execShr, hT, hamount]
    exact hR.related_accumulates h rd _ _
  | and rd ra rb => exact hR.related_accumulates₂ h rd (· &&& ·) fun _ _ => 0
  | or rd ra rb => exact hR.related_accumulates₂ h rd (· ||| ·) fun _ _ => 0
  | xor rd ra rb => exact hR.related_accumulates₂ h rd (· ^^^ ·) fun _ _ => 0
  | not rd ra =>
    simp only [exec, execNot, hT]
    exact hR.related_accumulates h rd _ fun _ => 0
  | cmp ra rb =>
    exact hR.related_withSources h fun a _ _ b _ _ _ _ => hR.related_answers h (compareCode a b)
  | cmps ra =>
    simp only [exec, execCmps, hlimb]
    exact hR.related_withSource h fun _ _ _ _ => hR.related_answers h _
  | tstf ra f =>
    exact hR.related_withFlagIndex h
      (hR.related_answersFlags h (readFlag · f) (hanswer rfl (readFlag · f)))
  | setf rd f =>
    exact hR.related_withFlagIndex h (hR.related_updatesFlags h (setFlag · f))
  | clrf rd f =>
    exact hR.related_withFlagIndex h (hR.related_updatesFlags h (clearFlag · f))
  | clrall rd => exact hR.related_updatesFlags h fun _ => 0
  | rdf ra => exact hR.related_answersFlags h BitVec.toNat (hanswer rfl BitVec.toNat)

end

end Simulation

/-! ### Registers that hold no value (R41) -/

theorem State.sameValues.reg_eq {s s' : State} (h : s.sameValues s') {r : Reg}
    (hr : s.constructed r = true) : s'.reg r = s.reg r := (h.2.2 r).2 hr

theorem SameNumber.eq {r r' : ValueReg} (h : SameNumber True r r') : r' = r := by
  obtain ⟨hv, hv', hlimbs, hflags⟩ := h
  cases r
  cases r'
  simp_all

theorem State.sameValues.setReg {s s' : State} (h : s.sameValues s') (rd : Reg) (v : ValueReg) :
    (s.setReg rd v).sameValues (s'.setReg rd v) := by
  obtain ⟨hcontrol, hresponses, hregs⟩ := h
  refine ⟨hcontrol, hresponses, fun r => ?_⟩
  simp only [State.constructed, State.setReg_reg]
  split
  · exact ⟨rfl, fun _ => rfl⟩
  · exact hregs r

theorem State.sameValues.respond {s s' : State} (h : s.sameValues s') (d : Nat) :
    (s.respond d).sameValues (s'.respond d) := by
  obtain ⟨hcontrol, hresponses, hregs⟩ := h
  exact ⟨hcontrol, congrArg (_ :: ·) hresponses, hregs⟩

theorem State.sameValues.raiseFault {s s' : State} (h : s.sameValues s') (c : Cause) :
    (s.raiseFault c).sameValues (s'.raiseFault c) := by
  obtain ⟨⟨hcfg, -, hport, hinputs⟩, hresponses, hregs⟩ := h
  refine ⟨⟨hcfg, ?_, hport, hinputs⟩, congrArg (_ :: ·) hresponses, hregs⟩
  rw [State.raiseFault_status, State.raiseFault_status, hport]

theorem State.sameValues.accept {s s' : State} (h : s.sameValues s') (c : Command)
    (rest : List HostInput) : (s.accept c rest).sameValues (s'.accept c rest) := by
  obtain ⟨⟨hcfg, hstatus, -, -⟩, hresponses, hregs⟩ := h
  exact ⟨⟨hcfg, hstatus, rfl, rfl⟩, hresponses, hregs⟩

theorem State.sameValues.takeReset {s s' : State} (h : s.sameValues s') (rest : List HostInput) :
    (s.takeReset rest).sameValues (s'.takeReset rest) := by
  obtain ⟨⟨hcfg, -, hport, -⟩, hresponses, -⟩ := h
  simp [State.sameValues, State.sameControl, State.constructed, hcfg, hport, hresponses]

/-- Of a register that holds a value everything is compared, its flags too. -/
theorem simulation_sameValues : Simulation True State.sameValues where
  control h := h.1
  constructed h r := (h.2.2 r).1
  reg h r hr := by
    have hreg := h.reg_eq hr
    rw [hreg]
    exact ⟨hr, hr, rfl, fun _ => rfl⟩
  raiseFault h c := h.raiseFault c
  respond h d := h.respond d
  setReg h rd v v' hv := by
    rw [hv.eq]
    exact h.setReg rd v

theorem exec_sameValues (i : Instr) {s s' : State} (h : s.sameValues s') :
    Related State.sameValues (exec i s) (exec i s') :=
  simulation_sameValues.related_exec h i fun _ _ _ _ hfl => by
    rw [hfl trivial]
    exact h.respond _

theorem step_sameValues {s s' : State} (h : s.sameValues s') :
    Related State.sameValues (step s) (step s') := by
  have ⟨_, hstatus, _, hinputs⟩ := h.1
  have hready : s'.cmdReady = s.cmdReady := by rw [State.cmdReady, State.cmdReady, hstatus]
  unfold step
  rw [hinputs, hready]
  split
  case h_1 rest _ => exact .next (h.takeReset rest)
  case h_2 c rest _ =>
    have haccept := h.accept c rest
    split
    case isTrue =>
      split
      case h_1 => exact simulation_sameValues.related_faulted haccept _
      case h_2 i _ => exact exec_sameValues i haccept
    case isFalse => exact .fault _
  case h_3 =>
    split
    case isTrue => exact .next h
    case isFalse => exact .fault _

/-- The induction: related states stay so along the run, and stop together. -/
theorem run_sameValues (n : Nat) {s s' : State} (h : s.sameValues s') :
    Related State.sameValues (Host.Core.run core n s) (Host.Core.run core n s') := by
  induction n generalizing s s' with
  | zero => exact .next h
  | succ n ih =>
    have hstep := step_sameValues h
    simp only [Host.Core.run, core]
    generalize step s = r, step s' = r' at hstep
    cases hstep with
    | next h => exact ih h
    | fault e => exact .fault e

/-- Settles O46: a run of two states that agree on the values held stays related, step by step. -/
theorem unconstructedContentsUnobservable : Obligations.UnconstructedContentsUnobservable := by
  intro n s s' h
  have hrun := run_sameValues n h
  exact ⟨fun t ht => (ht ▸ hrun).exists_next, fun e he => (he ▸ hrun).eq_fault⟩

/-! ### The flags (R29) -/

theorem State.sameButFlags.setReg {s s' : State} (h : s.sameButFlags s') (rd : Reg)
    {v v' : ValueReg} (hv : v'.v = v.v) (hlimbs : v'.limbs = v.limbs) :
    (s.setReg rd v).sameButFlags (s'.setReg rd v') := by
  obtain ⟨hcontrol, hregs⟩ := h
  refine ⟨hcontrol, fun r => ?_⟩
  simp only [State.constructed, State.setReg_reg]
  split
  · exact ⟨hv, hlimbs⟩
  · exact hregs r

theorem State.sameButFlags.respond {s s' : State} (h : s.sameButFlags s') (d d' : Nat) :
    (s.respond d).sameButFlags (s'.respond d') := h

theorem State.sameButFlags.raiseFault {s s' : State} (h : s.sameButFlags s') (c : Cause) :
    (s.raiseFault c).sameButFlags (s'.raiseFault c) := by
  obtain ⟨⟨hcfg, -, hport, hinputs⟩, hregs⟩ := h
  refine ⟨⟨hcfg, ?_, hport, hinputs⟩, hregs⟩
  rw [State.raiseFault_status, State.raiseFault_status, hport]

theorem State.sameButFlags.sameNumber {s s' : State} (h : s.sameButFlags s') {r : Reg}
    (hr : s.constructed r = true) : SameNumber False (s.reg r) (s'.reg r) :=
  have ⟨hv, hlimbs⟩ := h.2 r
  ⟨hr, hv.trans hr, hlimbs, False.elim⟩

theorem simulation_sameButFlags : Simulation False State.sameButFlags where
  control h := h.1
  constructed h r := (h.2 r).1
  reg h _ hr := h.sameNumber hr
  raiseFault h c := h.raiseFault c
  respond h d := h.respond d d
  setReg h rd _ _ hv := h.setReg rd (hv.right.trans hv.left.symm) hv.limbs

/-- The two states differ at most in the flags of value registers. -/
def State.sameButFlagsOnly (s s' : State) : Prop :=
  s.sameButFlags s' ∧ s'.responses = s.responses

theorem simulation_sameButFlagsOnly : Simulation False State.sameButFlagsOnly where
  control h := h.1.1
  constructed h r := (h.1.2 r).1
  reg h _ hr := h.1.sameNumber hr
  raiseFault h c := ⟨h.1.raiseFault c, congrArg (_ :: ·) h.2⟩
  respond h d := ⟨h.1.respond d d, congrArg (_ :: ·) h.2⟩
  setReg h rd _ _ hv := ⟨h.1.setReg rd (hv.right.trans hv.left.symm) hv.limbs, h.2⟩

/-- Settles O44: both relations are simulations, the one that compares the responses for the commands
that do not return the flags. -/
theorem flagsNeverEnterResults : Obligations.FlagsNeverEnterResults := by
  intro i s s' t t' h ht ht'
  constructor
  · have hrel := simulation_sameButFlags.related_exec h i fun _ _ _ _ _ => h.respond _ _
    rw [ht, ht'] at hrel
    exact hrel.of_next
  · intro hreturns hresponses
    have hrel := simulation_sameButFlagsOnly.related_exec ⟨h, hresponses⟩ i fun htrue =>
      absurd (hreturns.symm.trans htrue) (by decide)
    rw [ht, ht'] at hrel
    exact hrel.of_next.2

end Sys2Proof.Machine
end

section
/-! PROOFS. The destination of a command (R20, R22) and its flags (R25 to R28): what a command leaves
in the flags it writes, said once for every command (`exec_flags`), and reset (R40). -/

namespace Sys2Proof.Machine

/-! ### The registers a command does not write -/

theorem Shape.reg_eq {s t : State} {w : Option Reg} (h : Shape s w (.next t)) {r : Reg}
    (hr : w ≠ some r) : t.reg r = s.reg r := by
  cases h with
  | fault => rfl
  | answer => rfl
  | value rd | limb rd | flags rd =>
    have hne : r ≠ rd := fun he => hr (congrArg some he.symm)
    simp [hne]

theorem Shape.constructed_mono {s t : State} {w : Option Reg} (h : Shape s w (.next t)) {r : Reg}
    (hr : s.constructed r = true) : t.constructed r = true := by
  by_cases hw : w = some r
  · subst hw
    cases h with
    | fault => exact hr
    | value => simp [State.constructed]
    | limb | flags => simpa [State.constructed] using hr
  · rw [State.constructed, h.reg_eq hw]
    exact hr

/-- Settles O40, by the shape of a command's next state. -/
theorem onlyTheDestinationChanges : Obligations.OnlyTheDestinationChanges :=
  fun _ _ _ h => ⟨fun _ => (shape_of_exec h).reg_eq, fun _ => (shape_of_exec h).constructed_mono⟩

/-! ### When a command completes (R238) -/

theorem causeIn_eq_noFault_iff {i : Instr} {s : State} : i.causeIn s = .noFault ↔
    i.outOfRange s.N = false ∧ (∀ r ∈ i.reads, s.constructed r = true) ∧
      i.zeroDivisor s = false := by
  unfold Instr.causeIn
  split_ifs <;> simp_all

/-! ### Masks (R24) -/

theorem Flag.index_lt (k : Flag) : k.index < 7 := by cases k <;> decide

theorem Flag.index_inj {k l : Flag} : k.index = l.index ↔ k = l := by
  cases k <;> cases l <;> decide

theorem getLsbD_flagBit (n : Nat) (k : Flag) :
    (flagBit n).getLsbD k.index = decide (n = k.index) := by
  rw [flagBit, BitVec.getLsbD_ofNat, Nat.testBit_two_pow]
  simp [k.index_lt]

theorem getLsbD_mask (k l : Flag) : k.mask.getLsbD l.index = decide (k = l) := by
  simp [Flag.mask, getLsbD_flagBit, Flag.index_inj]

theorem and_not_eq_zero_iff {a b : Flags} :
    a &&& ~~~b = 0 ↔ ∀ n, a.getLsbD n = true → b.getLsbD n = true := by
  constructor
  · intro h n hn
    have hbit := congrArg (·.getLsbD n) h
    have hlt := BitVec.lt_of_getLsbD hn
    simpa [hn, hlt] using hbit
  · intro h
    apply BitVec.eq_of_getLsbD_eq
    intro n _
    cases ha : a.getLsbD n with
    | true => simp [ha, h n ha]
    | false => simp [ha]

/-! ### The flags a command can newly set (R27) -/

/-- Every flag of `new` is one that `i` can newly set. -/
def Detects (i : Instr) (new : Flags) : Prop :=
  ∀ k : Flag, new.getLsbD k.index = true → i.canSet k = true

theorem detects_zero (i : Instr) : Detects i 0 := fun _ hk => by simp at hk

theorem detects_mask {i : Instr} {f : Flag} (hf : i.canSet f = true) : Detects i f.mask := by
  intro k hk
  rw [getLsbD_mask, decide_eq_true_eq] at hk
  exact hk ▸ hf

theorem detects_newly {i : Instr} {f : Flag} (hf : i.canSet f = true) (b : Bool) :
    Detects i (newly f b) := by
  cases b with
  | true => exact detects_mask hf
  | false => exact detects_zero i

section
variable {i : Instr} (hleft : i.canSet .leftCarry = true) (hright : i.canSet .rightCarry = true)

include hleft in
theorem detects_shlCore (T a m : Nat) : Detects i (shlCore T a m).2 := by
  unfold shlCore; split
  · exact detects_mask hleft
  · exact detects_newly hleft _

include hright in
theorem detects_shrCore (T a m : Nat) : Detects i (shrCore T a m).2 := by
  unfold shrCore; split
  · exact detects_mask hright
  · exact detects_newly hright _

include hleft hright

theorem detects_shiftLeft (T a : Nat) (n : Int) : Detects i (shiftLeft T a n).2 := by
  unfold shiftLeft; split
  · exact detects_shlCore hleft _ _ _
  · exact detects_shrCore hright _ _ _

theorem detects_shiftRight (T a : Nat) (n : Int) : Detects i (shiftRight T a n).2 := by
  unfold shiftRight; split
  · exact detects_shrCore hright _ _ _
  · exact detects_shlCore hleft _ _ _

end

theorem setf_detects (rd : Reg) (f : Nat) : Detects (.setf rd f) (flagBit f) := by
  intro k hk
  rw [getLsbD_flagBit, decide_eq_true_eq] at hk
  exact decide_eq_true hk.symm

/-! ### The flags a command can leave (R120, R126) -/

/-- `fl` may be the destination's flags after the command `i` in `s`: unless `i` is an explicit reset
they hold every flag of its operands, and of other flags only those `i` can newly set. -/
structure FlagRule (i : Instr) (s : State) (fl : Flags) : Prop where
  keeps (hreset : i.resetsFlags = false) {r : Reg} (hr : r ∈ i.reads) :
    s.flags r &&& ~~~fl = 0
  adds (k : Flag) (hk : fl.getLsbD k.index = true) :
    i.canSet k = true ∨ ∃ r ∈ i.reads, (s.flags r).getLsbD k.index = true

section
variable {i : Instr} {s : State}

/-- The accumulator R120, for any number of operands with the flags `src` together. -/
theorem FlagRule.of_union {src new : Flags} (hnew : Detects i new)
    (hsrc : ∀ n, src.getLsbD n = true ↔ ∃ r ∈ i.reads, (s.flags r).getLsbD n = true) :
    FlagRule i s (src ||| new) where
  keeps _ r hr := and_not_eq_zero_iff.2 fun n hn => by simp [(hsrc n).2 ⟨r, hr, hn⟩]
  adds k hk := by
    rw [BitVec.getLsbD_or, Bool.or_eq_true] at hk
    exact hk.symm.imp (hnew k) (hsrc _).1

theorem FlagRule.fresh (hreads : i.reads = []) : FlagRule i s 0 :=
  .of_union (src := 0) (detects_zero i) (by simp [hreads])

theorem FlagRule.accumulate {ra : Reg} {new : Flags} (hreads : i.reads = [ra])
    (hnew : Detects i new) : FlagRule i s (accumulate (s.flags ra) new) :=
  .of_union hnew (by simp [hreads])

theorem FlagRule.accumulate₂ {ra rb : Reg} {new : Flags} (hreads : i.reads = [ra, rb])
    (hnew : Detects i new) : FlagRule i s (accumulate₂ (s.flags ra) (s.flags rb) new) :=
  .of_union hnew (by simp [hreads])

theorem FlagRule.copy {ra : Reg} (hreads : i.reads = [ra]) : FlagRule i s (s.flags ra) := by
  simpa [Machine.accumulate] using FlagRule.accumulate hreads (detects_zero i)

/-- The explicit resets R25(b) leave flags that were there. -/
theorem FlagRule.resets {rd : Reg} {fl : Flags} (hreset : i.resetsFlags = true)
    (hrd : rd ∈ i.reads) (hfl : ∀ n, fl.getLsbD n = true → (s.flags rd).getLsbD n = true) :
    FlagRule i s fl where
  keeps h := absurd (h.symm.trans hreset) (by decide)
  adds _ hk := .inr ⟨rd, hrd, hfl _ hk⟩

end

/-- What a command does to the flags of its destination. A fault of a command that reads the register
it writes may be one that `causeIn` does not name, at a flag index that no word spells
(notes/assumptions/10.md); the flags it leaves there are those it reads. -/
inductive FlagOutcome (i : Instr) (s : State) : Option Reg → Result → Prop where
  | fault {w : Option Reg} (c : Cause) (hcause : i.causeIn s ≠ .noFault) :
      FlagOutcome i s w (.next (s.raiseFault c))
  | faultAtRead {rd : Reg} (c : Cause) (hrule : FlagRule i s (s.flags rd)) :
      FlagOutcome i s (some rd) (.next (s.raiseFault c))
  | silent {t : State} : FlagOutcome i s none (.next t)
  | write {rd : Reg} {t : State} (hheld : ∀ r ∈ i.reads, s.constructed r = true)
      (hrule : FlagRule i s (t.flags rd)) : FlagOutcome i s (some rd) (.next t)

namespace FlagOutcome

section
variable {i : Instr} {s : State} {w : Option Reg}

theorem of_writes {rd : Reg} {x : Nat} {fl : Flags} (hheld : ∀ r ∈ i.reads, s.constructed r = true)
    (hrule : FlagRule i s fl) : FlagOutcome i s (some rd) (writes rd x fl s) :=
  .write hheld (by simpa [State.flags] using hrule)

theorem of_setFlags {rd : Reg} {fl : Flags} (hheld : ∀ r ∈ i.reads, s.constructed r = true)
    (hrule : FlagRule i s fl) :
    FlagOutcome i s (some rd) (.next ((s.setFlags rd fl).respond 0)) :=
  .write hheld (by simpa [State.flags] using hrule)

theorem of_setLimb {rd : Reg} {k l : Nat} (hheld : ∀ r ∈ i.reads, s.constructed r = true)
    (hrule : FlagRule i s (s.flags rd)) :
    FlagOutcome i s (some rd) (.next ((s.setLimb rd k l).respond 0)) :=
  .write hheld (by simpa [State.flags] using hrule)

theorem of_withSources {ra rb : Reg} {go : Nat → Flags → Nat → Flags → Result}
    (hreads : i.reads = [ra, rb])
    (h : (∀ r ∈ i.reads, s.constructed r = true) →
      FlagOutcome i s w (go (s.value ra) (s.flags ra) (s.value rb) (s.flags rb))) :
    FlagOutcome i s w (withSources ra rb s go) := by
  by_cases hheld : ∀ r ∈ i.reads, s.constructed r = true
  · rw [withSources_of_constructed (hheld ra (by simp [hreads])) (hheld rb (by simp [hreads]))]
    exact h hheld
  · have hmissing : s.constructed ra = false ∨ s.constructed rb = false := by
      simpa [hreads, imp_iff_not_or] using hheld
    rw [withSources_of_unconstructed hmissing]
    exact .fault _ fun hcause =>
      have ⟨_, hread, _⟩ := causeIn_eq_noFault_iff.1 hcause
      hheld hread

theorem of_needs {ra : Reg} {go : Result} (hreads : i.reads = [ra])
    (h : (∀ r ∈ i.reads, s.constructed r = true) → FlagOutcome i s w go) :
    FlagOutcome i s w (needs ra s go) := by
  by_cases hheld : ∀ r ∈ i.reads, s.constructed r = true
  · rw [needs_of_constructed (hheld ra (by simp [hreads]))]
    exact h hheld
  · have hmissing : s.constructed ra = false := by simpa [hreads] using hheld
    rw [needs_of_unconstructed hmissing]
    exact .fault _ fun hcause =>
      have ⟨_, hread, _⟩ := causeIn_eq_noFault_iff.1 hcause
      hheld hread

theorem of_withSource {ra : Reg} {go : Nat → Flags → Result} (hreads : i.reads = [ra])
    (h : (∀ r ∈ i.reads, s.constructed r = true) →
      FlagOutcome i s w (go (s.value ra) (s.flags ra))) :
    FlagOutcome i s w (withSource ra s go) := of_needs hreads h

theorem of_withDivisor {b : Nat} {go : Result} (hzero : b = 0 → i.zeroDivisor s = true)
    (h : FlagOutcome i s w go) : FlagOutcome i s w (withDivisor b s go) := by
  unfold withDivisor; split
  case isTrue hb =>
    refine .fault _ fun hcause => ?_
    have ⟨_, _, hne⟩ := causeIn_eq_noFault_iff.1 hcause
    exact absurd ((hzero hb).symm.trans hne) (by decide)
  case isFalse => exact h

theorem of_withLimbIndex {idx : Nat} {go : Result} (hrange : s.N ≤ idx → i.outOfRange s.N = true)
    (h : FlagOutcome i s w go) : FlagOutcome i s w (withLimbIndex idx s go) := by
  unfold withLimbIndex; split
  case isTrue hidx =>
    refine .fault _ fun hcause => ?_
    have ⟨hin, _⟩ := causeIn_eq_noFault_iff.1 hcause
    exact absurd ((hrange hidx).symm.trans hin) (by decide)
  case isFalse => exact h

theorem of_withFlagIndex {rd : Reg} {f : Nat} {go : Result} (hreads : i.reads = [rd])
    (h : FlagOutcome i s (some rd) go) : FlagOutcome i s (some rd) (withFlagIndex f s go) := by
  unfold withFlagIndex; split
  · exact .faultAtRead _ (.copy hreads)
  · exact h

theorem of_writesTo_eq_none (hw : i.writesTo = none) :
    FlagOutcome i s i.writesTo (exec i s) := by
  obtain ⟨t, ht⟩ := exec_next i s
  rw [hw, ht]
  exact .silent

end

end FlagOutcome

theorem clearFlag_sub (fl : Flags) (f n : Nat) (h : (clearFlag fl f).getLsbD n = true) :
    fl.getLsbD n = true := by
  rw [clearFlag, BitVec.getLsbD_and, Bool.and_eq_true] at h
  exact h.1

/-- What every command does to the flags of its destination. -/
theorem exec_flags (i : Instr) (s : State) : FlagOutcome i s i.writesTo (exec i s) := by
  unfold exec
  cases i with
  | zero | one | max | fromw => exact .of_writes (by simp [Instr.reads]) (.fresh rfl)
  | mov rd ra =>
    refine .of_withSource rfl fun h => ?_
    exact .of_writes h (.copy rfl)
  | setl rd idx =>
    exact .of_withLimbIndex decide_eq_true (.of_needs rfl fun h => .of_setLimb h (.copy rfl))
  | add | sub | mul =>
    refine .of_withSources rfl fun h => ?_
    exact .of_writes h (.accumulate₂ rfl (detects_newly rfl _))
  | adds | subs | muls =>
    refine .of_withSource rfl fun h => ?_
    exact .of_writes h (.accumulate rfl (detects_newly rfl _))
  | div | rem =>
    refine .of_withSources rfl fun h => ?_
    exact .of_withDivisor decide_eq_true (.of_writes h (.accumulate₂ rfl (detects_zero _)))
  | divs | rems =>
    refine .of_withSource rfl fun h => ?_
    exact .of_withDivisor decide_eq_true (.of_writes h (.accumulate rfl (detects_zero _)))
  | shl rd ra =>
    refine .of_withSource rfl fun h => ?_
    exact .of_writes h (.accumulate rfl (detects_shiftLeft rfl rfl _ _ _))
  | shr rd ra =>
    refine .of_withSource rfl fun h => ?_
    exact .of_writes h (.accumulate rfl (detects_shiftRight rfl rfl _ _ _))
  | and | or | xor =>
    refine .of_withSources rfl fun h => ?_
    exact .of_writes h (.accumulate₂ rfl (detects_zero _))
  | not rd ra =>
    refine .of_withSource rfl fun h => ?_
    exact .of_writes h (.accumulate rfl (detects_zero _))
  | setf rd f =>
    exact .of_withFlagIndex rfl
      (.of_needs rfl fun h => .of_setFlags h (.accumulate rfl (setf_detects rd f)))
  | clrf rd f =>
    exact .of_withFlagIndex rfl (.of_needs rfl fun h =>
      .of_setFlags h (.resets rfl (List.mem_singleton_self rd) (clearFlag_sub _ f)))
  | clrall rd =>
    exact .of_needs rfl fun h =>
      .of_setFlags h (.resets rfl (List.mem_singleton_self rd) (by simp))
  | getl | cmp | cmps | tstf | rdf => exact .of_writesTo_eq_none rfl

/-! ### The obligations on flags -/

/-- A command that completes leaves flags by the rule. -/
theorem flagRule_of_completes {i : Instr} {s t : State} {rd : Reg} (hcause : i.causeIn s = .noFault)
    (h : exec i s = .next t) (hw : i.writesTo = some rd) : FlagRule i s (t.flags rd) := by
  have hout := exec_flags i s
  rw [h, hw] at hout
  cases hout with
  | fault _ hne => exact absurd hcause hne
  | faultAtRead _ hrule => exact hrule
  | write _ hrule => exact hrule

/-- Settles O41: the destination keeps every operand's flags. -/
theorem flagsNeverCleared : Obligations.FlagsNeverCleared :=
  fun _ _ _ _ _ hcause hreset h hr hw => (flagRule_of_completes hcause h hw).keeps hreset hr

/-- Settles O42: no other flag than the operands' and the newly set ones is there. -/
theorem flagsNewlySet : Obligations.FlagsNewlySet :=
  fun _ _ _ _ k hcause h hw => (flagRule_of_completes hcause h hw).adds k

/-- The table of R27 has INFINITY, DIVIDED_BY_ZERO and UNDEFINED in the row of SETF alone (R28). -/
theorem canSet_eq_false {i : Instr} {k : Flag}
    (hk : k = .infinity ∨ k = .dividedByZero ∨ k = .undefinedFlag)
    (hi : ∀ (rd : Reg) (f : Nat), i ≠ .setf rd f) : i.canSet k = false := by
  cases i with
  | setf rd f => exact absurd rfl (hi rd f)
  | _ => rcases hk with rfl | rfl | rfl <;> rfl

/-- Settles O43: the destination's flags come from registers that hold a value, or are not written. -/
theorem threeFlagsOnlyBySetf : Obligations.ThreeFlagsOnlyBySetf := by
  intro i s t k hk hi hclear h r hr
  by_cases hw : i.writesTo = some r
  · have hout := exec_flags i s
    rw [h, hw] at hout
    cases hout with
    | fault => exact hclear r hr
    | faultAtRead => exact hclear r hr
    | write hheld hrule =>
      by_contra hset
      rcases hrule.adds k (Bool.eq_true_of_not_eq_false hset) with hcan | ⟨r', hr', hflag⟩
      · rw [canSet_eq_false hk hi] at hcan
        cases hcan
      · rw [hclear r' (hheld r' hr')] at hflag
        cases hflag
  · have hreg : t.reg r = s.reg r := (shape_of_exec h).reg_eq hw
    rw [State.constructed, hreg] at hr
    rw [State.flags, hreg]
    exact hclear r hr

/-! ### Reset (R40) -/

/-- Settles O29: every register is the empty one, and `STATUS` is clear by definition. -/
theorem resetHoldsNoValue : Obligations.ResetHoldsNoValue := by
  have hregs (c : Config) (r : Reg) : (State.resetWith c).constructed r = false := by
    rw [State.constructed, State.resetWith_reg, ValueReg.empty]
  exact ⟨hregs, fun _ => rfl, hregs Config.reference, rfl⟩

end Sys2Proof.Machine
end

section
/-! PROOFS. The decoder said once (`decode_eq_some_iff`): a word is a command exactly when it has the
command's opcode, zeros in the fields its form does not use, and its operands in the others
(spec/30_encoding.md R75 to R77). Decoding and encoding are inverse to each other, and the legal words
are those of the opcode table (R80, R81). -/

namespace Sys2Proof

/-! ### The decoder, by the fields of the word -/

/-- The operands of the command are the fields of the word that its form uses (R75, R76). -/
def Instr.HasFields (w : CmdWord) : Instr → Prop
  | .zero rd | .one rd | .max rd | .fromw rd | .clrall rd => rdField w = rd
  | .mov rd ra | .adds rd ra | .subs rd ra | .muls rd ra | .divs rd ra | .rems rd ra
  | .shl rd ra | .shr rd ra | .not rd ra => rdField w = rd ∧ raField w = ra
  | .add rd ra rb | .sub rd ra rb | .mul rd ra rb | .div rd ra rb | .rem rd ra rb
  | .and rd ra rb | .or rd ra rb | .xor rd ra rb => rdField w = rd ∧ raField w = ra ∧ rbField w = rb
  | .setl rd idx => rdField w = rd ∧ idxField w = idx
  | .getl ra idx => raField w = ra ∧ idxField w = idx
  | .cmp ra rb => raField w = ra ∧ rbField w = rb
  | .cmps ra | .rdf ra => raField w = ra
  | .tstf ra f => raField w = ra ∧ flagField w = f
  | .setf rd f | .clrf rd f => rdField w = rd ∧ flagField w = f

/-- An opcode of the map, with zeros in its unused fields, makes a legal word (R77). -/
theorem exists_decode_of_opField {w : CmdWord} (k : Instr) (hop : opField w = k.opcode)
    (hunused : k.form.unusedZero w) : ∃ i, decode w = some i := by
  unfold decode
  rw [hop]
  cases k <;> exact ⟨_, ofForm_of_unusedZero hunused _⟩

theorem decode_eq_some_iff {w : CmdWord} {i : Instr} : decode w = some i ↔
    opField w = i.opcode ∧ i.form.unusedZero w ∧ i.HasFields w := by
  constructor
  · intro h
    unfold decode at h
    split at h
    -- an opcode that is in no row of the map
    case h_31 => cases h
    all_goals
      obtain ⟨hunused, rfl⟩ := ofForm_eq_some.1 h
      exact ⟨‹_›, hunused, by simp [Instr.HasFields]⟩
  · rintro ⟨hop, hunused, hfields⟩
    unfold decode
    rw [hop]
    cases i <;> exact ofForm_eq_some.2 ⟨hunused, by simpa [Instr.HasFields] using hfields⟩

/-! ### The word of a well-formed command -/

/-- The family of Laws/PerInstr.lean, for every command. -/
theorem formFits : ∀ i : Instr, Laws.FormFits.Statement i
  | .zero rd => Laws.FormFits.zero rd
  | .one rd => Laws.FormFits.one rd
  | .max rd => Laws.FormFits.max rd
  | .fromw rd => Laws.FormFits.fromw rd
  | .mov rd ra => Laws.FormFits.mov rd ra
  | .setl rd idx => Laws.FormFits.setl rd idx
  | .getl ra idx => Laws.FormFits.getl ra idx
  | .add rd ra rb => Laws.FormFits.add rd ra rb
  | .adds rd ra => Laws.FormFits.adds rd ra
  | .sub rd ra rb => Laws.FormFits.sub rd ra rb
  | .subs rd ra => Laws.FormFits.subs rd ra
  | .mul rd ra rb => Laws.FormFits.mul rd ra rb
  | .muls rd ra => Laws.FormFits.muls rd ra
  | .div rd ra rb => Laws.FormFits.div rd ra rb
  | .divs rd ra => Laws.FormFits.divs rd ra
  | .rem rd ra rb => Laws.FormFits.rem rd ra rb
  | .rems rd ra => Laws.FormFits.rems rd ra
  | .shl rd ra => Laws.FormFits.shl rd ra
  | .shr rd ra => Laws.FormFits.shr rd ra
  | .and rd ra rb => Laws.FormFits.and rd ra rb
  | .or rd ra rb => Laws.FormFits.or rd ra rb
  | .xor rd ra rb => Laws.FormFits.xor rd ra rb
  | .not rd ra => Laws.FormFits.not rd ra
  | .cmp ra rb => Laws.FormFits.cmp ra rb
  | .cmps ra => Laws.FormFits.cmps ra
  | .tstf ra f => Laws.FormFits.tstf ra f
  | .setf rd f => Laws.FormFits.setf rd f
  | .clrf rd f => Laws.FormFits.clrf rd f
  | .clrall rd => Laws.FormFits.clrall rd
  | .rdf ra => Laws.FormFits.rdf ra

theorem encode_hasFields {i : Instr} (h : i.wf = true) : i.HasFields (encode i) := by
  have hop := i.opcode_lt
  have hzero : 0 < 4096 := by decide
  cases i with
  | zero rd | one rd | max rd | fromw rd | clrall rd => exact rdField_assemble hop rd 0 0 hzero
  | mov rd ra | adds rd ra | subs rd ra | muls rd ra | divs rd ra | rems rd ra
  | shl rd ra | shr rd ra | not rd ra =>
    exact ⟨rdField_assemble hop rd ra 0 hzero, raField_assemble hop rd ra 0 hzero⟩
  | add rd ra rb | sub rd ra rb | mul rd ra rb | div rd ra rb | rem rd ra rb
  | and rd ra rb | or rd ra rb | xor rd ra rb =>
    exact ⟨rdField_assemble hop rd ra rb hzero, raField_assemble hop rd ra rb hzero,
      rbField_assemble hop rd ra rb hzero⟩
  | setl rd idx =>
    have hidx : idx < 4096 := of_decide_eq_true h
    exact ⟨rdField_assemble hop rd 0 0 hidx, idxField_assemble hop rd 0 0 hidx⟩
  | getl ra idx =>
    have hidx : idx < 4096 := of_decide_eq_true h
    exact ⟨raField_assemble hop 0 ra 0 hidx, idxField_assemble hop 0 ra 0 hidx⟩
  | cmp ra rb => exact ⟨raField_assemble hop 0 ra rb hzero, rbField_assemble hop 0 ra rb hzero⟩
  | cmps ra | rdf ra => exact raField_assemble hop 0 ra 0 hzero
  | tstf ra f =>
    have hf : f < 8 := of_decide_eq_true h
    exact ⟨raField_assemble hop 0 ra 0 (by omega), flagField_assemble hop 0 ra 0 hf⟩
  | setf rd f | clrf rd f =>
    have hf : f < 8 := of_decide_eq_true h
    exact ⟨rdField_assemble hop rd 0 0 (by omega), flagField_assemble hop rd 0 0 hf⟩

/-- Settles O2: the word of a command has its opcode, zeros elsewhere, and its operands. -/
theorem decodeOfEncode : Obligations.DecodeOfEncode := fun i hwf =>
  have ⟨hop, hunused⟩ := formFits i hwf
  decode_eq_some_iff.2 ⟨hop, hunused, encode_hasFields hwf⟩

/-! ### The command of a legal word -/

theorem idxField_lt (w : CmdWord) : idxField w < 4096 := Nat.mod_lt _ (by decide)

theorem flagField_lt (w : CmdWord) : flagField w < 8 := Nat.mod_lt _ (by decide)

/-- A word whose `idx` field is below 8 has nothing in that field but `f` (R75). -/
theorem flagField_eq_idxField {w : CmdWord} (h : idxField w < 8) : flagField w = idxField w := by
  unfold idxField flagField field at *
  omega

theorem wf_of_hasFields {w : CmdWord} {i : Instr} (h : i.HasFields w) : i.wf = true := by
  cases i with
  | setl | getl =>
    obtain ⟨-, rfl⟩ := h
    exact decide_eq_true (idxField_lt w)
  | tstf | setf | clrf =>
    obtain ⟨-, rfl⟩ := h
    exact decide_eq_true (flagField_lt w)
  | _ => rfl

theorem assemble_eq_of_fields {w : CmdWord} {op idx : Nat} {rd ra rb : Reg} (hop : opField w = op)
    (hrd : rdField w = rd) (hra : raField w = ra) (hrb : rbField w = rb) (hidx : idxField w = idx) :
    assemble op rd ra rb idx = w := by
  rw [← hop, ← hrd, ← hra, ← hrb, ← hidx, assemble_fields]

/-- The operands fill the fields the form uses and zeros the others: no bit of the word is left. -/
theorem encode_eq_of_fields {w : CmdWord} {i : Instr} (hop : opField w = i.opcode)
    (hunused : i.form.unusedZero w) (hfields : i.HasFields w) : encode i = w := by
  cases i with
  | zero | one | max | fromw | clrall =>
    obtain ⟨hra, hrb, hidx⟩ := hunused
    exact assemble_eq_of_fields hop hfields hra hrb hidx
  | mov | adds | subs | muls | divs | rems | shl | shr | not =>
    obtain ⟨hrb, hidx⟩ := hunused
    obtain ⟨hrd, hra⟩ := hfields
    exact assemble_eq_of_fields hop hrd hra hrb hidx
  | add | sub | mul | div | rem | and | or | xor =>
    obtain ⟨hrd, hra, hrb⟩ := hfields
    exact assemble_eq_of_fields hop hrd hra hrb hunused
  | setl =>
    obtain ⟨hra, hrb⟩ := hunused
    obtain ⟨hrd, hidx⟩ := hfields
    exact assemble_eq_of_fields hop hrd hra hrb hidx
  | getl =>
    obtain ⟨hrd, hrb⟩ := hunused
    obtain ⟨hra, hidx⟩ := hfields
    exact assemble_eq_of_fields hop hrd hra hrb hidx
  | cmp =>
    obtain ⟨hrd, hidx⟩ := hunused
    obtain ⟨hra, hrb⟩ := hfields
    exact assemble_eq_of_fields hop hrd hra hrb hidx
  | cmps | rdf =>
    obtain ⟨hrd, hrb, hidx⟩ := hunused
    exact assemble_eq_of_fields hop hrd hfields hrb hidx
  | tstf =>
    obtain ⟨hrd, hrb, hlt⟩ := hunused
    obtain ⟨hra, hf⟩ := hfields
    exact assemble_eq_of_fields hop hrd hra hrb ((flagField_eq_idxField hlt).symm.trans hf)
  | setf | clrf =>
    obtain ⟨hra, hrb, hlt⟩ := hunused
    obtain ⟨hrd, hf⟩ := hfields
    exact assemble_eq_of_fields hop hrd hra hrb ((flagField_eq_idxField hlt).symm.trans hf)

/-- Settles O3: the fields the decoder reads are all the fields there are. -/
theorem encodeOfDecode : Obligations.EncodeOfDecode := fun _ _ h =>
  have ⟨hop, hunused, hfields⟩ := decode_eq_some_iff.1 h
  ⟨wf_of_hasFields hfields, encode_eq_of_fields hop hunused hfields⟩

/-! ### The opcode table (R80) -/

/-- One command of each row of the opcode table, in its order. -/
def tableCommands : List Instr :=
  [.zero 0, .one 0, .max 0, .fromw 0, .mov 0 0, .setl 0 0, .getl 0 0, .add 0 0 0, .adds 0 0,
    .sub 0 0 0, .subs 0 0, .mul 0 0 0, .muls 0 0, .div 0 0 0, .divs 0 0, .rem 0 0 0,
    .rems 0 0, .shl 0 0, .shr 0 0, .and 0 0 0, .or 0 0 0, .xor 0 0 0, .not 0 0, .cmp 0 0,
    .cmps 0, .tstf 0 0, .setf 0 0, .clrf 0 0, .clrall 0, .rdf 0]

/-- The row of the opcode table a command belongs to: its opcode and its form's mask. -/
def Instr.tableRow (i : Instr) : Nat × CmdWord := (i.opcode, i.form.mask)

theorem tableRow_mem (i : Instr) : i.tableRow ∈ tableCommands.map Instr.tableRow := by
  apply of_decide_eq_true
  cases i <;> rfl

theorem opField_eq (w : CmdWord) : opField w = w.toNat / 2 ^ 24 :=
  Nat.mod_eq_of_lt (Nat.div_lt_of_lt_mul w.isLt)

/-- The two tests of R77 on a table row, in terms of the fields. -/
theorem row_test_iff (k : Instr) (w : CmdWord) :
    (w.toNat / 2 ^ 24 = k.opcode ∧ w &&& k.form.mask = BitVec.ofNat 32 (k.opcode * 2 ^ 24)) ↔
      opField w = k.opcode ∧ k.form.unusedZero w := by
  rw [← opField_eq]
  refine and_congr_right fun hop => ?_
  rw [← hop, mask_iff_unusedZero]

/-- Settles O4: the table's rows are the opcodes and masks of the thirty commands. -/
theorem legalWordsMatchTheTable : Obligations.LegalWordsMatchTheTable := by
  intro w
  change _ ↔ ∃ row ∈ tableCommands.map Instr.tableRow, _
  constructor
  · intro h
    obtain ⟨i, hi⟩ := Option.isSome_iff_exists.1 h
    obtain ⟨hop, hunused, -⟩ := decode_eq_some_iff.1 hi
    exact ⟨i.tableRow, tableRow_mem i, (row_test_iff i w).2 ⟨hop, hunused⟩⟩
  · rintro ⟨row, hrow, htest⟩
    obtain ⟨k, -, rfl⟩ := List.mem_map.1 hrow
    obtain ⟨hop, hunused⟩ := (row_test_iff k w).1 htest
    exact Option.isSome_iff_exists.2 (exists_decode_of_opField k hop hunused)

end Sys2Proof
end

section
/-! PROOFS. An accepted command: the step performs what its word decodes to (spec/30_encoding.md R77,
R79), it gives exactly one response (R78), and it ignores a port it does not use (R82). -/

namespace Sys2Proof.Machine

/-! ### A step that accepts a command -/

section
variable {s : State} {c : Command} {rest : List HostInput}
  (hin : s.inputs = .command c :: rest) (hrun : s.status.halted = false)
include hin hrun

theorem step_of_decode_eq_some {i : Instr} (hdec : decode c.cmd = some i) :
    step s = exec i (s.accept c rest) := by
  simp only [step, hin, State.cmdReady_iff.2 hrun, hdec, if_true]

theorem step_of_decode_eq_none (hdec : decode c.cmd = none) :
    step s = .next ((s.accept c rest).raiseFault .illegalCommand) := by
  simp only [step, hin, State.cmdReady_iff.2 hrun, hdec, if_true, illegalWord, faulted]

end

/-- Settles O31: nothing stands around `exec` but the acceptance. -/
theorem stepRunsDecodedCommand : Obligations.StepRunsDecodedCommand :=
  fun _ _ _ _ hin hrun hdec => step_of_decode_eq_some hin hrun hdec

/-! ### Responses (R78) -/

/-- `t` has the one response `r` more than `s`, which says whether the block halted and carries no
data if it did. -/
structure RespondsWith (s t : State) (r : Response) : Prop where
  added : t.responses = r :: s.responses
  fault_iff : r.fault = true ↔ t.status.halted = true
  data_of_fault : r.fault = true → r.data = 0

theorem State.respondsWith_raiseFault (s : State) (c : Cause) :
    RespondsWith s (s.raiseFault c) { fault := true, data := 0 } :=
  ⟨rfl, by simp, fun _ => rfl⟩

/-- The response of a command, by the shape of its next state: only a command that writes no register
returns data. -/
theorem Shape.respondsWith {s t : State} {w : Option Reg} (h : Shape s w (.next t))
    (hrun : s.status.halted = false) : ∃ r, RespondsWith s t r ∧ (w ≠ none → r.data = 0) := by
  cases h with
  | fault c => exact ⟨_, s.respondsWith_raiseFault c, fun _ => rfl⟩
  | value | limb | flags => exact ⟨_, ⟨rfl, by simp [hrun], Bool.noConfusion⟩, fun _ => rfl⟩
  | answer => exact ⟨_, ⟨rfl, by simp [hrun], Bool.noConfusion⟩, fun hw => absurd rfl hw⟩

theorem Shape.inputs_eq {s t : State} {w : Option Reg} (h : Shape s w (.next t)) :
    t.inputs = s.inputs := by
  cases h with
  | fault | value | limb | flags | answer => rfl

/-- The commands that return data are those that write no register (R22, R78). -/
theorem returnsData_eq_false_iff {i : Instr} : i.returnsData = false ↔ i.writesTo ≠ none := by
  cases i <;> simp [Instr.returnsData, Instr.writesTo]

/-- Settles O36: an illegal word takes a fault, and a command responds by the shape of its next
state. -/
theorem oneResponsePerCommand : Obligations.OneResponsePerCommand := by
  intro s c rest hin hrun
  cases hdec : decode c.cmd with
  | none =>
    obtain ⟨hadded, hiff, hdata⟩ := (s.accept c rest).respondsWith_raiseFault .illegalCommand
    exact ⟨_, _, step_of_decode_eq_none hin hrun hdec, hadded, rfl, hiff, hdata,
      fun _ h => nomatch h⟩
  | some i =>
    obtain ⟨t, ht⟩ := exec_next i (s.accept c rest)
    have hshape := shape_of_exec ht
    obtain ⟨r, ⟨hadded, hiff, hdata⟩, hsilent⟩ := hshape.respondsWith hrun
    refine ⟨t, r, (step_of_decode_eq_some hin hrun hdec).trans ht, hadded, hshape.inputs_eq, hiff,
      hdata, ?_⟩
    rintro _ ⟨⟩ hreturns
    exact hsilent (returnsData_eq_false_iff.1 hreturns)

/-! ### The operand ports (R82) -/

/-- The state with other contents of both operand ports. -/
def State.withPorts (s : State) (l : Nat) (a : Amount) : State := (s.withLimbIn l).withAmtIn a

/-- The second state is the first with `l` and `a` on the operand ports. -/
def Rewired (l : Nat) (a : Amount) (s s' : State) : Prop := s' = s.withPorts l a

section
variable {s : State} {l : Nat} {a : Amount}

/-! The operand checks go the same way whatever lies on the ports; the answers leave it there. -/

theorem rewired_faulted (c : Cause) :
    Related (Rewired l a) (faulted c s) (faulted c (s.withPorts l a)) := .next rfl

theorem rewired_writes (rd : Reg) (x : Nat) (fl : Flags) :
    Related (Rewired l a) (writes rd x fl s) (writes rd x fl (s.withPorts l a)) := .next rfl

theorem rewired_answers (d : Nat) :
    Related (Rewired l a) (answers d s) (answers d (s.withPorts l a)) := .next rfl

theorem rewired_needs {ra : Reg} {go go' : Result} (hgo : Related (Rewired l a) go go') :
    Related (Rewired l a) (needs ra s go) (needs ra (s.withPorts l a) go') := by
  have hsame : (s.withPorts l a).constructed ra = s.constructed ra := rfl
  unfold needs
  rw [hsame]
  split
  · exact hgo
  · exact rewired_faulted _

theorem rewired_withSource {ra : Reg} {go go' : Nat → Flags → Result}
    (hgo : ∀ x fx, Related (Rewired l a) (go x fx) (go' x fx)) :
    Related (Rewired l a) (withSource ra s go) (withSource ra (s.withPorts l a) go') :=
  rewired_needs (hgo _ _)

theorem rewired_withSources {ra rb : Reg} {go go' : Nat → Flags → Nat → Flags → Result}
    (hgo : ∀ x fx y fy, Related (Rewired l a) (go x fx y fy) (go' x fx y fy)) :
    Related (Rewired l a) (withSources ra rb s go) (withSources ra rb (s.withPorts l a) go') :=
  rewired_needs (rewired_needs (hgo _ _ _ _))

theorem rewired_withLimbIndex {idx : Nat} {go go' : Result} (hgo : Related (Rewired l a) go go') :
    Related (Rewired l a) (withLimbIndex idx s go) (withLimbIndex idx (s.withPorts l a) go') := by
  have hN : (s.withPorts l a).N = s.N := rfl
  unfold withLimbIndex
  rw [hN]
  split
  · exact rewired_faulted _
  · exact hgo

theorem rewired_withFlagIndex {f : Nat} {go go' : Result} (hgo : Related (Rewired l a) go go') :
    Related (Rewired l a) (withFlagIndex f s go) (withFlagIndex f (s.withPorts l a) go') := by
  unfold withFlagIndex
  split
  · exact rewired_faulted _
  · exact hgo

theorem rewired_withDivisor {b : Nat} {go go' : Result} (hgo : Related (Rewired l a) go go') :
    Related (Rewired l a) (withDivisor b s go) (withDivisor b (s.withPorts l a) go') := by
  unfold withDivisor
  split
  · exact rewired_faulted _
  · exact hgo

end

/-- A command sees of the ports only those it uses: with the same contents on these, it does the same
whatever lies on the others. -/
theorem rewired_exec (i : Instr) (s : State) {l : Nat} {a : Amount}
    (hl : i.usesLimbIn = true → l = s.port.limbIn) (ha : i.usesAmtIn = true → a = s.port.amtIn) :
    Related (Rewired l a) (exec i s) (exec i (s.withPorts l a)) := by
  cases i with
  | zero | one | max => exact rewired_writes _ _ _
  | fromw rd =>
    obtain rfl := hl rfl
    exact rewired_writes _ _ _
  | mov | not => exact rewired_withSource fun _ _ => rewired_writes _ _ _
  | setl rd idx =>
    obtain rfl := hl rfl
    exact rewired_withLimbIndex (rewired_needs (.next rfl))
  | getl => exact rewired_withLimbIndex (rewired_needs (rewired_answers _))
  | add | sub | mul | and | or | xor =>
    exact rewired_withSources fun _ _ _ _ => rewired_writes _ _ _
  | adds rd ra | subs rd ra | muls rd ra =>
    obtain rfl := hl rfl
    exact rewired_withSource fun _ _ => rewired_writes _ _ _
  | div | rem =>
    exact rewired_withSources fun _ _ _ _ => rewired_withDivisor (rewired_writes _ _ _)
  | divs rd ra | rems rd ra =>
    obtain rfl := hl rfl
    exact rewired_withSource fun _ _ => rewired_withDivisor (rewired_writes _ _ _)
  | shl rd ra | shr rd ra =>
    obtain rfl := ha rfl
    exact rewired_withSource fun _ _ => rewired_writes _ _ _
  | cmp => exact rewired_withSources fun _ _ _ _ => rewired_answers _
  | cmps ra =>
    obtain rfl := hl rfl
    exact rewired_withSource fun _ _ => rewired_answers _
  | tstf => exact rewired_withFlagIndex (rewired_needs (rewired_answers _))
  | setf | clrf => exact rewired_withFlagIndex (rewired_needs (.next rfl))
  | clrall => exact rewired_needs (.next rfl)
  | rdf => exact rewired_needs (rewired_answers _)

theorem exec_withPorts {i : Instr} {s t : State} (h : exec i s = .next t) {l : Nat} {a : Amount}
    (hl : i.usesLimbIn = true → l = s.port.limbIn) (ha : i.usesAmtIn = true → a = s.port.amtIn) :
    exec i (s.withPorts l a) = .next (t.withPorts l a) := by
  obtain ⟨t', ht', rfl⟩ := (h ▸ rewired_exec i s hl ha).exists_next
  exact ht'

theorem Shape.port_eq {s t : State} {w : Option Reg} (h : Shape s w (.next t)) :
    t.port = s.port := by
  cases h with
  | fault | value | limb | flags | answer => rfl

theorem State.withPorts_amtIn (s : State) (l : Nat) :
    s.withPorts l s.port.amtIn = s.withLimbIn l := rfl

theorem State.withPorts_limbIn (s : State) (a : Amount) :
    s.withPorts s.port.limbIn a = s.withAmtIn a := rfl

/-- Settles O45: one port changes and the other keeps its contents. -/
theorem unusedPortsIgnored : Obligations.UnusedPortsIgnored := by
  intro i s t h
  have hport := (shape_of_exec h).port_eq
  constructor
  · intro l hunused
    rw [← s.withPorts_amtIn, ← t.withPorts_amtIn, hport]
    exact exec_withPorts h (fun huses => absurd (hunused.symm.trans huses) (by decide)) fun _ => rfl
  · intro a hunused
    rw [← s.withPorts_limbIn, ← t.withPorts_limbIn, hport]
    exact exec_withPorts h (fun _ => rfl) fun huses => absurd (hunused.symm.trans huses) (by decide)

end Sys2Proof.Machine
end

section
/-! PROOFS. What a command does, in the terms of the statements, from what `exec` answers: a value
written, data returned, or a fault taken (R9, R78, R236), with everything it leaves unchanged. -/

namespace Sys2Proof.Machine

/-! ### Frames -/

theorem State.othersKept_setReg (s : State) (rd : Reg) (v : ValueReg) (d : Nat) :
    s.othersKept ((s.setReg rd v).respond d) rd := fun r hr => by simp [hr]

theorem State.sameControl_setReg (s : State) (rd : Reg) (v : ValueReg) (d : Nat) :
    s.sameControl ((s.setReg rd v).respond d) := ⟨rfl, rfl, rfl, rfl⟩

/-! ### The answers -/

theorem faultsWith_of_exec {i : Instr} {s : State} {c : Cause} (h : exec i s = faulted c s) :
    FaultsWith i s c := ⟨s.raiseFault c, h, fun _ => rfl, rfl, rfl, rfl, rfl, rfl⟩

theorem answersData_of_exec {i : Instr} {s : State} {d : Nat} (h : exec i s = answers d s) :
    AnswersData i s d := ⟨s.respond d, h, fun _ => rfl, ⟨rfl, rfl, rfl, rfl⟩, rfl⟩

/-- A number that fits `T` bits reads back as the number written (R8, R9). -/
theorem writesValue_of_exec {i : Instr} {s : State} {rd : Reg} {x : Nat} {fl : Flags}
    (h : exec i s = writes rd x fl s) (hx : x < 2 ^ s.T) : WritesValue i s rd x fl := by
  have hreg : ((s.dst rd x fl).respond 0).reg rd =
      { v := true, limbs := limbsOf s.W s.N x, flags := fl } := by simp
  refine ⟨_, h, ?_, ?_, ?_, ?_, s.othersKept_setReg rd _ 0, s.sameControl_setReg rd _ 0, rfl⟩
  · rw [State.constructed, hreg]
  · rw [State.value, hreg]
    exact valOf_limbsOf_of_lt hx
  · rw [State.flags, hreg]
  · rw [hreg]
    exact limbsWf_limbsOf s.cfg x

/-! ### Numbers that fit a register -/

/-- A value holds at least one limb (R4). -/
theorem State.W_le_T {s : State} (hs : s.wf = true) : s.W ≤ s.T := by
  obtain ⟨hcfg, -, -, -⟩ := State.wf_iff.1 hs
  simp only [Config.wf, Bool.and_eq_true, decide_eq_true_eq] at hcfg
  obtain ⟨⟨hN, -⟩, -⟩ := hcfg
  exact Nat.le_mul_of_pos_right _ hN

theorem State.two_pow_W_le {s : State} (hs : s.wf = true) : 2 ^ s.W ≤ 2 ^ s.T :=
  Nat.pow_le_pow_right (by decide) (State.W_le_T hs)

theorem State.limbIn_lt_two_pow_T {s : State} (hs : s.wf = true) : s.limbIn < 2 ^ s.T :=
  (limbIn_lt s).trans_le (State.two_pow_W_le hs)

theorem State.one_lt_two_pow_T {s : State} (hs : s.wf = true) : 1 < 2 ^ s.T :=
  calc 1 < 256 := by decide
    _ ≤ 2 ^ s.W := two_pow_W_ge s.cfg
    _ ≤ 2 ^ s.T := State.two_pow_W_le hs

/-! ### The limbs of a register -/

theorem State.limbsWf_reg {s : State} (hs : s.wf = true) (r : Reg) :
    limbsWf s.cfg (s.reg r).limbs = true :=
  have ⟨_, hregs, _, _⟩ := State.wf_iff.1 hs
  hregs r

theorem State.length_limbs {s : State} (hs : s.wf = true) (r : Reg) :
    (s.reg r).limbs.length = s.N := (limbsWf_iff.1 (State.limbsWf_reg hs r)).1

/-- A register that holds a value is the record of its number and its flags (R8, R20). -/
theorem State.reg_eq_of_constructed {s : State} (hs : s.wf = true) {r : Reg}
    (hr : s.constructed r = true) :
    s.reg r = { v := true, limbs := limbsOf s.W s.N (s.value r), flags := s.flags r } := by
  have hlimbs : limbsOf s.W s.N (s.value r) = (s.reg r).limbs := by
    rw [← State.length_limbs hs r]
    exact limbsOf_valOf (limbsWf_iff.1 (State.limbsWf_reg hs r)).2
  rw [hlimbs, ← hr]
  rfl

theorem State.getElem?_limbs {s : State} (hs : s.wf = true) (r : Reg) {idx : Nat}
    (hidx : idx < s.N) : (s.reg r).limbs[idx]? = some (s.limb r idx) := by
  rw [← State.length_limbs hs r] at hidx
  rw [State.limb, List.getD_eq_getElem _ _ hidx, List.getElem?_eq_getElem hidx]

end Sys2Proof.Machine
end

section
/-! PROOFS. Constructing, copying and limb access (spec/40_construct_move.md R100 to R107). -/

namespace Sys2Proof.Machine

/-! ### MOV, SETL and GETL, case by case -/

section
variable {s : State} {rd ra : Reg} {idx : Nat}

theorem exec_mov_of_constructed (hra : s.constructed ra = true) :
    exec (.mov rd ra) s = writes rd (s.value ra) (s.flags ra) s :=
    withSource_of_constructed hra (writes rd · · s)

theorem exec_mov_of_unconstructed (hra : s.constructed ra = false) :
    exec (.mov rd ra) s = faulted .unconstructed s :=
    withSource_of_unconstructed hra (writes rd · · s)

theorem exec_setl_of_constructed (hidx : idx < s.N) (hrd : s.constructed rd = true) :
    exec (.setl rd idx) s = .next ((s.setLimb rd idx s.limbIn).respond 0) :=
  (withLimbIndex_of_lt hidx _).trans (needs_of_constructed hrd _)

theorem exec_setl_of_unconstructed (hidx : idx < s.N) (hrd : s.constructed rd = false) :
    exec (.setl rd idx) s = faulted .unconstructed s :=
  (withLimbIndex_of_lt hidx _).trans (needs_of_unconstructed hrd _)

theorem exec_setl_of_le (hidx : s.N ≤ idx) :
    exec (.setl rd idx) s = faulted .operandRange s := withLimbIndex_of_le hidx _

theorem exec_getl_of_constructed (hidx : idx < s.N) (hra : s.constructed ra = true) :
    exec (.getl ra idx) s = answers (s.limb ra idx) s :=
  (withLimbIndex_of_lt hidx _).trans (needs_of_constructed hra _)

theorem exec_getl_of_unconstructed (hidx : idx < s.N) (hra : s.constructed ra = false) :
    exec (.getl ra idx) s = faulted .unconstructed s :=
  (withLimbIndex_of_lt hidx _).trans (needs_of_unconstructed hra _)

theorem exec_getl_of_le (hidx : s.N ≤ idx) :
    exec (.getl ra idx) s = faulted .operandRange s := withLimbIndex_of_le hidx _

end

/-! ### The obligations -/

/-- Settles O5: each constructor writes a number below `2^T`. -/
theorem constructorCommands : Obligations.ConstructorCommands := by
  refine ⟨fun rd => ⟨decodeOfEncode (.zero rd) rfl, decodeOfEncode (.one rd) rfl,
    decodeOfEncode (.max rd) rfl, decodeOfEncode (.fromw rd) rfl⟩, fun s rd hs => ?_⟩
  have hpos : 0 < 2 ^ s.T := Nat.two_pow_pos _
  exact ⟨writesValue_of_exec rfl hpos, writesValue_of_exec rfl (State.one_lt_two_pow_T hs),
    writesValue_of_exec rfl (Nat.sub_lt hpos Nat.one_pos),
    writesValue_of_exec rfl (State.limbIn_lt_two_pow_T hs)⟩

/-- Settles O6: the limbs that spell the number of `ra` are the limbs of `ra`. -/
theorem movCommand : Obligations.MovCommand := by
  refine ⟨fun rd ra => decodeOfEncode (.mov rd ra) rfl, fun s rd ra hs => ⟨fun hra => ?_,
    fun hra => faultsWith_of_exec (exec_mov_of_unconstructed hra)⟩⟩
  refine ⟨_, exec_mov_of_constructed hra, ?_, s.othersKept_setReg rd _ 0,
    s.sameControl_setReg rd _ 0, rfl⟩
  rw [State.respond_reg, State.dst_reg, if_pos rfl, ← State.reg_eq_of_constructed hs hra]

/-- Settles O7: after the two checks, one limb of `rd` is set. -/
theorem setlCommand : Obligations.SetlCommand := by
  refine ⟨fun rd idx hidx => decodeOfEncode (.setl rd idx) (decide_eq_true hidx),
    fun s rd idx hs => ⟨fun hidx => faultsWith_of_exec (exec_setl_of_le hidx),
      fun hidx hrd => faultsWith_of_exec (exec_setl_of_unconstructed hidx hrd),
      fun hidx hrd => ?_⟩⟩
  have hlength := State.length_limbs hs rd
  have hreg : ((s.setLimb rd idx s.limbIn).respond 0).reg rd =
      { s.reg rd with limbs := (s.reg rd).limbs.set idx s.limbIn } := by simp
  refine ⟨_, exec_setl_of_constructed hidx hrd, ?_, ?_, ?_, ?_, ?_, s.othersKept_setReg rd _ 0,
    s.sameControl_setReg rd _ 0, rfl⟩
  · rw [State.constructed, hreg]
    exact hrd
  · rw [State.flags, hreg]
    rfl
  · rw [hreg, List.length_set, hlength]
  · rw [hreg, List.getElem?_set_self (hlength.symm ▸ hidx)]
  · intro k hk
    rw [hreg, List.getElem?_set_ne hk.symm]

/-- Settles O8: after the two checks, the index is within the `N` limbs of `ra`. -/
theorem getlCommand : Obligations.GetlCommand :=
  ⟨fun ra idx hidx => decodeOfEncode (.getl ra idx) (decide_eq_true hidx), fun s ra idx hs =>
    ⟨fun hidx => faultsWith_of_exec (exec_getl_of_le hidx),
      fun hidx hra => faultsWith_of_exec (exec_getl_of_unconstructed hidx hra),
      fun hidx hra => ⟨s.limb ra idx, State.getElem?_limbs hs ra hidx,
        answersData_of_exec (exec_getl_of_constructed hidx hra)⟩⟩⟩

end Sys2Proof.Machine
end

section
/-! PROOFS. The flag commands (spec/41_flags.md R121 to R125). -/

namespace Sys2Proof.Machine

/-! ### One flag of the seven, bit by bit (R24) -/

section
variable {f : Nat} (hf : f < 7) (fl : Flags) (k : Nat)
include hf

theorem getLsbD_flagBit_of_lt : (flagBit f).getLsbD k = decide (f = k) := by
  rw [flagBit, BitVec.getLsbD_ofNat, Nat.testBit_two_pow]
  by_cases hk : f = k
  · simp [← hk, hf]
  · simp [hk]

theorem getLsbD_setFlag : (setFlag fl f).getLsbD k = (fl.getLsbD k || decide (f = k)) := by
  rw [setFlag, BitVec.getLsbD_or, getLsbD_flagBit_of_lt hf]

theorem getLsbD_clearFlag : (clearFlag fl f).getLsbD k = (fl.getLsbD k && !decide (f = k)) := by
  rw [clearFlag, BitVec.getLsbD_and, BitVec.getLsbD_not, getLsbD_flagBit_of_lt hf]
  cases hk : fl.getLsbD k with
  | true => simp [BitVec.lt_of_getLsbD hk]
  | false => rfl

end

theorem readFlag_eq_getLsbD (fl : Flags) (f : Nat) :
    readFlag fl f = if fl.getLsbD f then 1 else 0 :=
  (Nat.toNat_testBit fl.toNat f).symm.trans (Bool.cond_eq_ite _ 1 0)

/-! ### What a flag command answers -/

section
variable {i : Instr} {s : State} {r : Reg}

theorem writesFlags_of_exec {fl : Flags} (h : exec i s = .next ((s.setFlags r fl).respond 0)) :
    WritesFlags i s r fl :=
  ⟨_, h, by simp, s.othersKept_setReg r _ 0, s.sameControl_setReg r _ 0, rfl⟩

theorem faultsWith_of_needs {go : Result} (h : exec i s = needs r s go)
    (hr : s.constructed r = false) : FaultsWith i s .unconstructed :=
  faultsWith_of_exec (h.trans (needs_of_unconstructed hr go))

/-! The commands with a flag index check it before the register (R232, R238). -/

section
variable {f : Nat} {go : Result} (h : exec i s = withFlagIndex f s (needs r s go))
include h

theorem faultsWith_of_flagIndex_eq (hf : f = 7) : FaultsWith i s .operandRange :=
  faultsWith_of_exec (h.trans (withFlagIndex_of_le hf.ge s _))

theorem faultsWith_of_flagIndex_lt (hf : f < 7) (hr : s.constructed r = false) :
    FaultsWith i s .unconstructed :=
  faultsWith_of_needs (h.trans (withFlagIndex_of_lt hf s _)) hr

theorem exec_of_flagIndex_lt (hf : f < 7) (hr : s.constructed r = true) : exec i s = go :=
  h.trans ((withFlagIndex_of_lt hf s _).trans (needs_of_constructed hr go))

end

end

/-! ### The obligations -/

/-- Settles O26: the new flags are the old ones with bit `f` set, or cleared. -/
theorem setfClrfCommands : Obligations.SetfClrfCommands := by
  refine ⟨fun rd f hf => ⟨decodeOfEncode (.setf rd f) (decide_eq_true hf),
      decodeOfEncode (.clrf rd f) (decide_eq_true hf)⟩, fun s rd f =>
    ⟨fun hf => ⟨faultsWith_of_flagIndex_eq rfl hf, faultsWith_of_flagIndex_eq rfl hf⟩,
      fun hf hrd => ⟨faultsWith_of_flagIndex_lt rfl hf hrd, faultsWith_of_flagIndex_lt rfl hf hrd⟩,
      fun hf hrd => ⟨?_, ?_⟩⟩⟩
  · refine ⟨setFlag (s.flags rd) f, writesFlags_of_exec (exec_of_flagIndex_lt rfl hf hrd), ?_,
      fun k hk => ?_⟩
    · simp [getLsbD_setFlag hf]
    · simp [getLsbD_setFlag hf, hk.symm]
  · refine ⟨clearFlag (s.flags rd) f, writesFlags_of_exec (exec_of_flagIndex_lt rfl hf hrd), ?_,
      fun k hk => ?_⟩
    · simp [getLsbD_clearFlag hf]
    · simp [getLsbD_clearFlag hf, hk.symm]

/-- Settles O25: `(flags div 2^f) mod 2` is bit `f` of the flags. -/
theorem tstfCommand : Obligations.TstfCommand := by
  refine ⟨fun ra f hf => decodeOfEncode (.tstf ra f) (decide_eq_true hf), fun s ra f =>
    ⟨faultsWith_of_flagIndex_eq rfl, faultsWith_of_flagIndex_lt rfl, fun hf hra => ?_⟩⟩
  rw [← readFlag_eq_getLsbD]
  exact answersData_of_exec (exec_of_flagIndex_lt rfl hf hra)

/-- Settles O27: after the constructed check, the flags of `rd` are set to 0. -/
theorem clrallCommand : Obligations.ClrallCommand :=
  ⟨fun rd => decodeOfEncode (.clrall rd) rfl, fun _ _ =>
    ⟨fun hrd => writesFlags_of_exec (needs_of_constructed hrd _), faultsWith_of_needs rfl⟩⟩

/-- Settles O28: after the constructed check, the answer is the flags as a number. -/
theorem rdfCommand : Obligations.RdfCommand :=
  ⟨fun ra => decodeOfEncode (.rdf ra) rfl, fun _ _ =>
    ⟨fun hra => answersData_of_exec (needs_of_constructed hra _), faultsWith_of_needs rfl⟩⟩

end Sys2Proof.Machine
end

section
/-! PROOFS. The adder and the subtractor as commands (spec/42_add_sub.md R136, R137, R139, R140),
the single-limb forms, and the laws of R142. -/

namespace Sys2Proof.Machine

/-! ### Exact results and their flags -/

theorem overflowOf_eq (T x : Nat) : overflowOf T x = if 2 ^ T ≤ x then 0x01#7 else 0#7 :=
  ite_congr (decide_eq_true_eq) (fun _ => rfl) (fun _ => rfl)

theorem underflowOf_eq (d : Int) : underflowOf d = if d < 0 then 0x02#7 else 0#7 :=
  ite_congr (decide_eq_true_eq) (fun _ => rfl) (fun _ => rfl)

theorem overflowOf_of_lt {T x : Nat} (h : x < 2 ^ T) : overflowOf T x = 0#7 := by
  rw [overflowOf_eq, if_neg h.not_ge]

theorem natCast_wrapDifference (T : Nat) (d : Int) :
    (wrapDifference T d : Int) = d % (2 ^ T : Nat) :=
  Int.toNat_of_nonneg (Int.emod_nonneg _ (by positivity))

theorem wrapDifference_lt (T : Nat) (d : Int) : wrapDifference T d < 2 ^ T := by
  rw [← Int.ofNat_lt, natCast_wrapDifference]
  exact Int.emod_lt_of_pos _ (by positivity)

/-- Differences that agree modulo `2^T` wrap to the same number. -/
theorem wrapDifference_eq {T x : Nat} {d : Int} (hx : x < 2 ^ T)
    (h : d % (2 ^ T : Nat) = x % (2 ^ T : Nat)) : wrapDifference T d = x := by
  rw [← Int.natCast_inj, natCast_wrapDifference, h, ← Int.natCast_emod, Nat.mod_eq_of_lt hx]

/-- A number that fits is not wrapped. -/
theorem wrapDifference_natCast {T x : Nat} (hx : x < 2 ^ T) : wrapDifference T x = x :=
  wrapDifference_eq hx rfl

section
variable {T a b : Nat}

theorem wrapDifference_of_le (ha : a < 2 ^ T) (h : b ≤ a) : wrapDifference T (a - b) = a - b :=
  (congrArg _ (Int.natCast_sub h).symm).trans (wrapDifference_natCast (by omega))

theorem wrapDifference_of_lt (hb : b < 2 ^ T) (h : a < b) :
    wrapDifference T (a - b) = 2 ^ T + a - b := by
  refine wrapDifference_eq (by omega) ?_
  rw [Int.natCast_sub (by omega), Int.natCast_add, add_sub_assoc, Int.add_emod_left]

/-- The inverse of R142: the wrap of the sum is undone by the wrap of the difference. -/
theorem wrapDifference_add_mod (ha : a < 2 ^ T) :
    wrapDifference T (((a + b) % 2 ^ T : Nat) - b) = a := by
  refine wrapDifference_eq ha ?_
  rw [Int.natCast_emod, Int.emod_sub_emod, Int.natCast_add, add_sub_cancel_right]

end

/-! ### What the four commands answer -/

section
variable {i : Instr} {s : State} {rd ra rb : Reg}

theorem faultsWith_of_needs_needs {go : Result} (h : exec i s = needs ra s (needs rb s go))
    (hsrc : s.constructed ra = false ∨ s.constructed rb = false) : FaultsWith i s .unconstructed :=
  faultsWith_of_exec (h.trans (withSources_of_unconstructed hsrc fun _ _ _ _ => go))

section
variable (ha : s.constructed ra = true)
include ha

theorem exec_adds_of_constructed : exec (.adds rd ra) s =
    writes rd ((s.value ra + s.limbIn) % 2 ^ s.T)
      (s.flags ra ||| overflowOf s.T (s.value ra + s.limbIn)) s := by
  rw [exec, execAdds, withSource_of_constructed ha]
  rfl

theorem exec_subs_of_constructed : exec (.subs rd ra) s =
    writes rd (wrapDifference s.T (s.value ra - s.limbIn))
      (s.flags ra ||| underflowOf (s.value ra - s.limbIn)) s := by
  rw [exec, execSubs, withSource_of_constructed ha]
  rfl

variable (hb : s.constructed rb = true)
include hb

theorem exec_add_of_constructed : exec (.add rd ra rb) s =
    writes rd ((s.value ra + s.value rb) % 2 ^ s.T)
      (s.flags ra ||| s.flags rb ||| overflowOf s.T (s.value ra + s.value rb)) s := by
  rw [exec, execAdd, withSources_of_constructed ha hb]
  rfl

theorem exec_sub_of_constructed : exec (.sub rd ra rb) s =
    writes rd (wrapDifference s.T (s.value ra - s.value rb))
      (s.flags ra ||| s.flags rb ||| underflowOf (s.value ra - s.value rb)) s := by
  rw [exec, execSub, withSources_of_constructed ha hb]
  rfl

end

/-- A wrapped number with OVERFLOW newly set exactly when it does not fit (R136, R137). -/
theorem writesValue_of_overflow {x : Nat} {fl : Flags}
    (h : exec i s = writes rd (x % 2 ^ s.T) (fl ||| overflowOf s.T x) s) :
    WritesValue i s rd (x % 2 ^ s.T) (fl ||| if 2 ^ s.T ≤ x then 0x01#7 else 0#7) := by
  rw [overflowOf_eq] at h
  exact writesValue_of_exec h (Nat.mod_lt _ (Nat.two_pow_pos _))

section
variable {a b : Nat} {fl : Flags}
  (h : exec i s = writes rd (wrapDifference s.T (a - b)) (fl ||| underflowOf (a - b)) s)
include h

theorem writesValue_of_sub_le (ha : a < 2 ^ s.T) (hle : b ≤ a) : WritesValue i s rd (a - b) fl := by
  rw [wrapDifference_of_le ha hle, underflowOf_eq, if_neg (by omega), BitVec.or_zero] at h
  exact writesValue_of_exec h (by omega)

theorem writesValue_of_sub_lt (hb : b < 2 ^ s.T) (hlt : a < b) :
    WritesValue i s rd (2 ^ s.T + a - b) (fl ||| 0x02#7) := by
  rw [wrapDifference_of_lt hb hlt, underflowOf_eq, if_pos (by omega)] at h
  exact writesValue_of_exec h (by omega)

end

end

/-! ### The obligations on the four commands -/

/-- Settles O9: the answer is the exact sum, wrapped, with OVERFLOW when it does not fit. -/
theorem addCommand : Obligations.AddCommand :=
  ⟨fun rd ra rb => decodeOfEncode (.add rd ra rb) rfl, fun _ _ _ _ =>
    ⟨fun ha hb => writesValue_of_overflow (exec_add_of_constructed ha hb),
      faultsWith_of_needs_needs rfl⟩⟩

/-- Settles O10: as ADD, with the limb on the port for the second operand. -/
theorem addsCommand : Obligations.AddsCommand :=
  ⟨fun rd ra => decodeOfEncode (.adds rd ra) rfl, fun _ _ _ =>
    ⟨fun ha => writesValue_of_overflow (exec_adds_of_constructed ha), faultsWith_of_needs rfl⟩⟩

/-- Settles O11: both operands are below `2^T`, so the difference wraps at most once. -/
theorem subCommand : Obligations.SubCommand :=
  ⟨fun rd ra rb => decodeOfEncode (.sub rd ra rb) rfl, fun s _ ra rb hs =>
    ⟨fun ha hb => ⟨writesValue_of_sub_le (exec_sub_of_constructed ha hb) (s.value_lt hs ra),
        writesValue_of_sub_lt (exec_sub_of_constructed ha hb) (s.value_lt hs rb)⟩,
      faultsWith_of_needs_needs rfl⟩⟩

/-- Settles O12: a limb is below `2^T` too, as a value holds at least one. -/
theorem subsCommand : Obligations.SubsCommand :=
  ⟨fun rd ra => decodeOfEncode (.subs rd ra) rfl, fun s _ ra hs =>
    ⟨fun ha => ⟨writesValue_of_sub_le (exec_subs_of_constructed ha) (s.value_lt hs ra),
        writesValue_of_sub_lt (exec_subs_of_constructed ha) (State.limbIn_lt_two_pow_T hs)⟩,
      faultsWith_of_needs rfl⟩⟩

/-! ### Single-limb forms -/

theorem accumulate₂_zero (fa new : Flags) : accumulate₂ fa 0 new = accumulate fa new := by
  rw [accumulate₂, accumulate, show fa ||| 0 = fa from BitVec.or_zero]

/-- A second source of value `limb_in` with clear flags may as well come from the port. -/
theorem withSource_eq_withSources {s : State} {ra rb : Reg} (hb : s.constructed rb = true)
    (hvalue : s.value rb = s.limbIn) (hflags : s.flags rb = 0) {go : Nat → Flags → Result}
    {go' : Nat → Flags → Nat → Flags → Result} (hgo : ∀ a fa, go a fa = go' a fa s.limbIn 0) :
    withSource ra s go = withSources ra rb s go' := by
  rw [withSources, needs_of_constructed hb, withSource, hvalue, hflags, hgo]

/-- Settles O51: the flags of the second source are the only difference, and they are clear. -/
theorem singleLimbForms : Obligations.SingleLimbForms := by
  intro s rd ra rb hb hvalue hflags
  simp only [exec, execAdds, execAdd, execSubs, execSub, execMuls, execMul, execDivs, execDiv,
    execRems, execRem, execCmps, execCmp]
  refine ⟨?_, ?_, ?_, ?_, ?_, ?_⟩ <;>
    exact withSource_eq_withSources hb hvalue hflags fun a fa => by simp only [accumulate₂_zero]

/-! ### The laws of the adder (R142) -/

section
variable {s t u : State} {rd : Reg} {x : Nat} {fl : Flags}

theorem eq_of_writes (h : writes rd x fl s = .next t) : t = (s.dst rd x fl).respond 0 :=
  (Host.Outcome.next.inj h).symm

theorem reg_of_writes (h : writes rd x fl s = .next t) :
    t.reg rd = { v := true, limbs := limbsOf s.W s.N x, flags := fl } := by
  rw [eq_of_writes h, State.respond_reg, State.dst_reg, if_pos rfl]

theorem value_of_writes (h : writes rd x fl s = .next t) (hx : x < 2 ^ s.T) : t.value rd = x := by
  have hW : t.W = s.W := by rw [eq_of_writes h, State.respond_W, State.dst_W]
  rw [State.value, hW, reg_of_writes h]
  exact valOf_limbsOf_of_lt hx

theorem constructed_of_writes (h : writes rd x fl s = .next t) : t.constructed rd = true := by
  rw [State.constructed, reg_of_writes h]

/-- Subtracting what was added gives the value back, however the sum wrapped. -/
theorem value_of_add_sub {a b : Nat} {fl' : Flags} (ha : a < 2 ^ s.T)
    (ht : writes rd ((a + b) % 2 ^ s.T) fl s = .next t)
    (hu : writes rd (wrapDifference t.T (t.value rd - b)) fl' t = .next u) : u.value rd = a := by
  have hT : t.T = s.T := by rw [eq_of_writes ht, State.respond_T, State.dst_T]
  rw [value_of_writes hu (wrapDifference_lt ..), hT,
    value_of_writes ht (Nat.mod_lt _ (Nat.two_pow_pos _)), wrapDifference_add_mod ha]

/-- Adding 0 with no flags writes the record that was read. -/
theorem reg_of_add_zero {ra : Reg} (hs : s.wf = true) (ha : s.constructed ra = true)
    (h : writes rd ((s.value ra + 0) % 2 ^ s.T) (s.flags ra ||| overflowOf s.T (s.value ra + 0)) s =
      .next t) : t.reg rd = s.reg ra := by
  have hlt := s.value_lt hs ra
  rw [Nat.add_zero, Nat.mod_eq_of_lt hlt, overflowOf_of_lt hlt, BitVec.or_zero] at h
  rw [reg_of_writes h, ← State.reg_eq_of_constructed hs ha]

end

theorem exec_add_comm (s : State) (rd ra rb : Reg) :
    exec (.add rd ra rb) s = exec (.add rd rb ra) s := by
  by_cases hsrc : s.constructed ra = true ∧ s.constructed rb = true
  · obtain ⟨ha, hb⟩ := hsrc
    rw [exec_add_of_constructed ha hb, exec_add_of_constructed hb ha, Nat.add_comm,
      BitVec.or_comm (s.flags ra)]
  · rw [not_and_or, Bool.not_eq_true, Bool.not_eq_true] at hsrc
    rw [exec, exec, execAdd, execAdd, withSources_of_unconstructed hsrc,
      withSources_of_unconstructed hsrc.symm]

/-- Settles O47: the sum is symmetric, the difference undoes its wrap, and 0 changes nothing. -/
theorem additionLaws : Obligations.AdditionLaws := by
  refine ⟨exec_add_comm, fun s t u rd ra rb hs hne ha hb ht hu => ?_,
    fun s t u rd ra hs ha ht hu => ?_, fun s t rd ra rb hs ha hb hvalue hflags ht => ?_,
    fun s t rd ra hs ha hlimb ht => ?_⟩
  · rw [exec_add_of_constructed ha hb] at ht
    have hrb : t.reg rb = s.reg rb := by
      rw [eq_of_writes ht, State.respond_reg, State.dst_reg, if_neg hne]
    have hvalue : t.value rb = s.value rb := by
      rw [State.value, hrb, eq_of_writes ht, State.respond_W, State.dst_W, State.value]
    rw [exec_sub_of_constructed (constructed_of_writes ht) (by rwa [State.constructed, hrb]),
      hvalue] at hu
    exact value_of_add_sub (s.value_lt hs ra) ht hu
  · rw [exec_adds_of_constructed ha] at ht
    have hlimb : t.limbIn = s.limbIn := by rw [eq_of_writes ht]; rfl
    rw [exec_subs_of_constructed (constructed_of_writes ht), hlimb] at hu
    exact value_of_add_sub (s.value_lt hs ra) ht hu
  · rw [exec_add_of_constructed ha hb, hvalue, hflags, BitVec.or_zero] at ht
    exact reg_of_add_zero hs ha ht
  · rw [exec_adds_of_constructed ha, hlimb] at ht
    exact reg_of_add_zero hs ha ht

end Sys2Proof.Machine
end

section
/-! PROOFS. The ripple loops (spec/42_add_sub.md R138, R141): each computes the limbs of the exact
sum or difference and says by its carry or borrow out whether that number fits. A single-limb path
is the two-register loop with zeros for the other limbs. -/

namespace Sys2Proof.Machine

/-! ### The ripple-carry loop (R138) -/

theorem limbsOf_mod (W n x : Nat) : limbsOf W n (x % 2 ^ (W * n)) = limbsOf W n x :=
  valOf_inj (limbsOf_lt W n _) (limbsOf_lt W n x) (by simp) (by simp [valOf_limbsOf])

/-- The loop's limbs and carry are the low and the high part of the exact sum. -/
theorem rippleAdd_eq (W c : Nat) {as bs : List Nat} (hlength : as.length = bs.length) :
    rippleAdd W c as bs = (limbsOf W as.length (valOf W as + valOf W bs + c),
      (valOf W as + valOf W bs + c) / 2 ^ (W * as.length)) := by
  induction as generalizing c bs with
  | nil =>
    obtain rfl := List.length_eq_zero_iff.1 hlength.symm
    simp [rippleAdd, limbsOf, valOf]
  | cons a as ih =>
    obtain _ | ⟨b, bs⟩ := bs
    · simp at hlength
    have hsum : valOf W (a :: as) + valOf W (b :: bs) + c =
        (a + b + c) + 2 ^ W * (valOf W as + valOf W bs) := by
      simp only [valOf]; ring
    have hquot : ((a + b + c) + 2 ^ W * (valOf W as + valOf W bs)) / 2 ^ W =
        valOf W as + valOf W bs + (a + b + c) / 2 ^ W := by
      rw [Nat.add_mul_div_left _ _ (Nat.two_pow_pos W), Nat.add_comm]
    rw [rippleAdd, ih _ (Nat.succ_inj.1 hlength), hsum, List.length_cons, limbsOf,
      Nat.add_mul_mod_self_left, Nat.mul_succ, Nat.pow_add, Nat.mul_comm (2 ^ (W * as.length)),
      ← Nat.div_div_eq_div_mul, hquot]

/-- The single-limb path stops at a zero carry; the full loop would go on copying limbs. -/
theorem rippleAddLimb_eq_rippleAdd (W c : Nat) {as : List Nat} (has : ∀ l ∈ as, l < 2 ^ W) :
    rippleAddLimb W c as = rippleAdd W c as (List.replicate as.length 0) := by
  induction as generalizing c with
  | nil => rfl
  | cons a as ih =>
    by_cases hc : c = 0
    · rw [hc, rippleAdd_eq W 0 List.length_replicate.symm, valOf_replicate_zero, Nat.add_zero,
        limbsOf_valOf has, Nat.div_eq_of_lt (valOf_lt has)]
      rfl
    · simp only [rippleAddLimb, if_neg hc, ih _ fun l hl => has l (List.mem_cons_of_mem a hl)]
      rfl

theorem rippleAddLimb_eq (W c : Nat) {as : List Nat} (has : ∀ l ∈ as, l < 2 ^ W) :
    rippleAddLimb W c as =
      (limbsOf W as.length (valOf W as + c), (valOf W as + c) / 2 ^ (W * as.length)) := by
  rw [rippleAddLimb_eq_rippleAdd W c has, rippleAdd_eq W c List.length_replicate.symm,
    valOf_replicate_zero, Nat.add_zero]

/-! ### The ripple-borrow loop (R141) -/

/-- The lowest limb of a wrapped difference, and the wrapped floor quotient above it. -/
theorem limbsOf_wrapDifference_succ (W n : Nat) (d : Int) :
    limbsOf W (n + 1) (wrapDifference (W * (n + 1)) d) =
      wrapDifference W d :: limbsOf W n (wrapDifference (W * n) (d / (2 ^ W : Nat))) := by
  have hpow : 2 ^ (W * (n + 1)) = 2 ^ W * 2 ^ (W * n) := by
    rw [Nat.mul_succ, Nat.pow_add, Nat.mul_comm]
  have hmod : wrapDifference (W * (n + 1)) d % 2 ^ W = wrapDifference W d := by
    rw [← Int.natCast_inj, Int.natCast_emod, natCast_wrapDifference, natCast_wrapDifference, hpow,
      Int.natCast_mul, Int.mod_mul_right_mod]
  have hdiv : wrapDifference (W * (n + 1)) d / 2 ^ W =
      wrapDifference (W * n) (d / (2 ^ W : Nat)) := by
    rw [← Int.natCast_inj, Int.natCast_ediv, natCast_wrapDifference, natCast_wrapDifference, hpow,
      Int.natCast_mul, Int.emod_def, Int.emod_def, Int.mul_assoc,
      Int.sub_mul_ediv_left _ _ (by positivity), Int.ediv_ediv_of_nonneg (by positivity)]
  rw [limbsOf, hmod, hdiv]

/-- The borrow out of a difference (R141). -/
def borrowOf (d : Int) : Nat := if d < 0 then 1 else 0

theorem borrowOf_le_one (d : Int) : borrowOf d ≤ 1 := by
  unfold borrowOf; split <;> decide

theorem borrowOf_eq_one_iff {d : Int} : borrowOf d = 1 ↔ d < 0 := by simp [borrowOf]

theorem borrowOf_natCast (x : Nat) : borrowOf x = 0 := if_neg (Int.natCast_nonneg x).not_gt

theorem rippleSub_cons (W bw a b : Nat) (as bs : List Nat) :
    rippleSub W bw (a :: as) (b :: bs) =
      (wrapDifference W (a - b - bw) :: (rippleSub W (borrowOf (a - b - bw)) as bs).1,
        (rippleSub W (borrowOf (a - b - bw)) as bs).2) := rfl

/-- A limb difference lies one wrap around zero, so its floor quotient is the borrow, negated. -/
theorem ediv_eq_neg_borrowOf {t : Int} {m : Nat} (hlow : -(m : Int) ≤ t) (hhigh : t < m) :
    t / m = -(borrowOf t : Int) := by
  unfold borrowOf
  split
  next ht => exact Int.ediv_eq_neg_one_of_neg_of_le ht (by omega)
  next ht => exact Int.ediv_eq_zero_of_lt (by omega) hhigh

/-- Floor division keeps the sign, hence the borrow. -/
theorem borrowOf_ediv (d : Int) {m : Nat} (hm : 0 < m) : borrowOf (d / m) = borrowOf d := by
  have hsign : d / m < 0 ↔ d < 0 := by
    rw [← not_iff_not, not_lt, not_lt, Int.ediv_nonneg_iff_of_pos (Int.natCast_pos.2 hm)]
  exact if_congr hsign rfl rfl

/-- The loop's limbs are those of the wrapped difference, and it borrows when that is negative. -/
theorem rippleSub_eq (W : Nat) {bw : Nat} (hbw : bw ≤ 1) {as bs : List Nat}
    (hlength : as.length = bs.length) (has : ∀ l ∈ as, l < 2 ^ W) (hbs : ∀ l ∈ bs, l < 2 ^ W) :
    rippleSub W bw as bs =
      (limbsOf W as.length (wrapDifference (W * as.length) (valOf W as - valOf W bs - bw)),
        borrowOf (valOf W as - valOf W bs - bw)) := by
  induction as generalizing bw bs with
  | nil =>
    obtain rfl := List.length_eq_zero_iff.1 hlength.symm
    interval_cases bw <;> rfl
  | cons a as ih =>
    obtain _ | ⟨b, bs⟩ := bs
    · simp at hlength
    obtain ⟨ha, has⟩ := List.forall_mem_cons.1 has
    obtain ⟨hb, hbs⟩ := List.forall_mem_cons.1 hbs
    have hsum : (valOf W (a :: as) : Int) - valOf W (b :: bs) - bw =
        (a - b - bw) + (2 ^ W : Nat) * (valOf W as - valOf W bs) := by
      simp only [valOf]; push_cast; ring
    have hmod : wrapDifference W (valOf W (a :: as) - valOf W (b :: bs) - bw) =
        wrapDifference W (a - b - bw) := by
      rw [hsum, wrapDifference, Int.add_mul_emod_self_left, wrapDifference]
    have hquot : ((valOf W (a :: as) : Int) - valOf W (b :: bs) - bw) / (2 ^ W : Nat) =
        valOf W as - valOf W bs - borrowOf (a - b - bw) := by
      rw [hsum, Int.add_mul_ediv_left _ _ (by positivity),
        ediv_eq_neg_borrowOf (by omega) (by omega), neg_add_eq_sub]
    rw [rippleSub_cons, ih (borrowOf_le_one _) (Nat.succ_inj.1 hlength) has hbs, ← hquot, ← hmod,
      borrowOf_ediv _ (Nat.two_pow_pos W), List.length_cons, limbsOf_wrapDifference_succ]

theorem rippleSubLimb_cons (W a : Nat) (as : List Nat) {bw : Nat} (hbw : bw ≠ 0) :
    rippleSubLimb W bw (a :: as) =
      (wrapDifference W (a - bw) :: (rippleSubLimb W (borrowOf (a - bw)) as).1,
        (rippleSubLimb W (borrowOf (a - bw)) as).2) := if_neg hbw

theorem replicate_zero_lt (W n : Nat) : ∀ l ∈ List.replicate n 0, l < 2 ^ W := fun _ hl =>
  List.eq_of_mem_replicate hl ▸ Nat.two_pow_pos W

/-- Subtracting nothing leaves the limbs, and borrows nothing. -/
theorem rippleSub_zero (W : Nat) {as : List Nat} (has : ∀ l ∈ as, l < 2 ^ W) :
    rippleSub W 0 as (List.replicate as.length 0) = (as, 0) := by
  rw [rippleSub_eq W (Nat.zero_le 1) List.length_replicate.symm has (replicate_zero_lt W _),
    valOf_replicate_zero, Nat.cast_zero, sub_zero, sub_zero, wrapDifference_natCast (valOf_lt has),
    limbsOf_valOf has, borrowOf_natCast]

/-- The single-limb path stops at a zero borrow; the full loop would go on copying limbs. -/
theorem rippleSubLimb_eq_rippleSub (W bw : Nat) {as : List Nat} (has : ∀ l ∈ as, l < 2 ^ W) :
    rippleSubLimb W bw as = rippleSub W bw as (List.replicate as.length 0) := by
  induction as generalizing bw with
  | nil => rfl
  | cons a as ih =>
    by_cases hbw : bw = 0
    · rw [hbw, rippleSub_zero W has]
      rfl
    · rw [rippleSubLimb_cons W a as hbw, ih _ fun l hl => has l (List.mem_cons_of_mem a hl),
        List.length_cons, List.replicate_succ, rippleSub_cons, Nat.cast_zero, sub_zero]

/-- On the lowest limb a borrow counts as a subtrahend: the single limb is the second operand,
zero-extended (R140). -/
theorem rippleSubLimb_eq (W : Nat) {l : Nat} (hl : l < 2 ^ W) {as : List Nat} (hne : as ≠ [])
    (has : ∀ l ∈ as, l < 2 ^ W) :
    rippleSubLimb W l as =
      (limbsOf W as.length (wrapDifference (W * as.length) (valOf W as - l)),
        borrowOf (valOf W as - l)) := by
  obtain ⟨a, as, rfl⟩ := List.exists_cons_of_ne_nil hne
  have hlimbs : ∀ x ∈ l :: List.replicate as.length 0, x < 2 ^ W :=
    List.forall_mem_cons.2 ⟨hl, replicate_zero_lt W _⟩
  have hvalue : valOf W (l :: List.replicate as.length 0) = l := by
    rw [valOf, valOf_replicate_zero, Nat.mul_zero, Nat.add_zero]
  calc rippleSubLimb W l (a :: as)
      = rippleSub W l (a :: as) (0 :: List.replicate as.length 0) :=
        rippleSubLimb_eq_rippleSub W l has
    _ = rippleSub W 0 (a :: as) (l :: List.replicate as.length 0) := by
        rw [rippleSub_cons, rippleSub_cons, sub_right_comm]
    _ = _ := by
        rw [rippleSub_eq W (Nat.zero_le 1) (by simp) has hlimbs, hvalue, Nat.cast_zero, sub_zero]

/-! ### The obligations on the loops -/

section
variable {i : Instr} {s : State} {rd : Reg} {fl : Flags} {r : List Nat × Nat}

/-- A wrapped sum below `2 * 2^T`, by its limbs and its carry (R138). -/
theorem exists_next_of_carry {x : Nat} (hr : r = (limbsOf s.W s.N x, x / 2 ^ s.T))
    (hx : x < 2 * 2 ^ s.T) (h : exec i s = writes rd (x % 2 ^ s.T) (fl ||| overflowOf s.T x) s) :
    ∃ t : State, exec i s = .next t ∧ (t.reg rd).limbs = r.1 ∧ r.2 ≤ 1 ∧
      t.flags rd = fl ||| (if r.2 = 1 then 0x01#7 else 0#7) := by
  subst hr
  have hcarry : x / 2 ^ s.T ≤ 1 := Nat.le_of_lt_succ (Nat.div_lt_of_lt_mul (by omega))
  have hone : x / 2 ^ s.T = 1 ↔ 2 ^ s.T ≤ x := by
    rw [← Nat.one_le_div_iff (Nat.two_pow_pos _)]
    omega
  refine ⟨_, h, ?_, hcarry, ?_⟩
  · rw [reg_of_writes rfl]
    exact limbsOf_mod ..
  · rw [State.flags, reg_of_writes rfl, overflowOf_eq, if_congr hone rfl rfl]

/-- A wrapped difference, by its limbs and its borrow (R141). -/
theorem exists_next_of_borrow {d : Int}
    (hr : r = (limbsOf s.W s.N (wrapDifference s.T d), borrowOf d))
    (h : exec i s = writes rd (wrapDifference s.T d) (fl ||| underflowOf d) s) :
    ∃ t : State, exec i s = .next t ∧ (t.reg rd).limbs = r.1 ∧ r.2 ≤ 1 ∧
      t.flags rd = fl ||| (if r.2 = 1 then 0x02#7 else 0#7) := by
  subst hr
  refine ⟨_, h, ?_, borrowOf_le_one d, ?_⟩
  · rw [reg_of_writes rfl]
  · rw [State.flags, reg_of_writes rfl, underflowOf_eq, if_congr borrowOf_eq_one_iff rfl rfl]

end

theorem State.limbs_lt {s : State} (hs : s.wf = true) (r : Reg) :
    ∀ l ∈ (s.reg r).limbs, l < 2 ^ s.W :=
  have ⟨_, hlt⟩ := limbsWf_iff.1 (State.limbsWf_reg hs r)
  hlt

theorem State.limbs_ne_nil {s : State} (hs : s.wf = true) (r : Reg) : (s.reg r).limbs ≠ [] := by
  intro hnil
  have hN : s.cfg.N = 0 := by rw [← State.N, ← State.length_limbs hs r, hnil, List.length_nil]
  have hT : 1 < 2 ^ s.T := State.one_lt_two_pow_T hs
  rw [State.T, Config.T, hN] at hT
  exact hT.false

/-- Settles O52: both loops compute the exact sum, which is below `2 * 2^T`. -/
theorem rippleCarryAdder : Obligations.RippleCarryAdder := by
  intro s rd ra rb hs ha
  have hlength := State.length_limbs hs
  have hvalue := State.value_lt hs
  refine ⟨fun hb => exists_next_of_carry ?_ ?_ (exec_add_of_constructed ha hb),
    exists_next_of_carry ?_ ?_ (exec_adds_of_constructed ha)⟩
  · rw [rippleAdd_eq s.W 0 ((hlength ra).trans (hlength rb).symm), hlength]
    rfl
  · have := hvalue ra
    have := hvalue rb
    omega
  · rw [rippleAddLimb_eq s.W s.limbIn (State.limbs_lt hs ra), hlength]
    rfl
  · have := hvalue ra
    have := State.limbIn_lt_two_pow_T hs
    omega

/-- Settles O53: both loops compute the exact difference, which borrows when it is negative. -/
theorem rippleBorrowSubtractor : Obligations.RippleBorrowSubtractor := by
  intro s rd ra rb hs ha
  have hlength := State.length_limbs hs
  refine ⟨fun hb => exists_next_of_borrow ?_ (exec_sub_of_constructed ha hb),
    exists_next_of_borrow ?_ (exec_subs_of_constructed ha)⟩
  · rw [rippleSub_eq s.W (Nat.zero_le 1) ((hlength ra).trans (hlength rb).symm)
      (State.limbs_lt hs ra) (State.limbs_lt hs rb), hlength, Nat.cast_zero, sub_zero]
    rfl
  · rw [rippleSubLimb_eq s.W (limbIn_lt s) (State.limbs_ne_nil hs ra) (State.limbs_lt hs ra),
      hlength]
    rfl

end Sys2Proof.Machine
end

section
/-! PROOFS. The multiplier as commands (spec/43_multiply.md R151, R152). -/

namespace Sys2Proof.Machine

/-! ### What the two commands answer -/

section
variable {s : State} {rd ra rb : Reg} (ha : s.constructed ra = true)
include ha

theorem exec_muls_of_constructed : exec (.muls rd ra) s =
    writes rd (s.value ra * s.limbIn % 2 ^ s.T)
      (s.flags ra ||| overflowOf s.T (s.value ra * s.limbIn)) s := by
  rw [exec, execMuls, withSource_of_constructed ha]
  rfl

theorem exec_mul_of_constructed (hb : s.constructed rb = true) : exec (.mul rd ra rb) s =
    writes rd (s.value ra * s.value rb % 2 ^ s.T)
      (s.flags ra ||| s.flags rb ||| overflowOf s.T (s.value ra * s.value rb)) s := by
  rw [exec, execMul, withSources_of_constructed ha hb]
  rfl

end

/-! ### The obligations on the two commands -/

/-- Settles O13: the answer is the exact product, wrapped, with OVERFLOW when it does not fit. -/
theorem mulCommand : Obligations.MulCommand :=
  ⟨fun rd ra rb => decodeOfEncode (.mul rd ra rb) rfl, fun _ _ _ _ =>
    ⟨fun ha hb => writesValue_of_overflow (exec_mul_of_constructed ha hb),
      faultsWith_of_needs_needs rfl⟩⟩

/-- Settles O14: as MUL, with the limb on the port for the second factor. -/
theorem mulsCommand : Obligations.MulsCommand :=
  ⟨fun rd ra => decodeOfEncode (.muls rd ra) rfl, fun _ _ _ =>
    ⟨fun ha => writesValue_of_overflow (exec_muls_of_constructed ha), faultsWith_of_needs rfl⟩⟩

end Sys2Proof.Machine
end

section
/-! PROOFS. The multiplication loops (spec/43_multiply.md R153, R154): each computes the limbs of the
exact product, and what it leaves above `N` limbs is nonzero exactly when the product overflows. -/

namespace Sys2Proof.Machine

/-! ### Limb sequences, cut and joined (R8) -/

/-- The low `m` limbs of a number, and the limbs of its quotient above them. -/
theorem limbsOf_add (W m n x : Nat) :
    limbsOf W (m + n) x = limbsOf W m x ++ limbsOf W n (x / 2 ^ (W * m)) := by
  induction m generalizing x with
  | zero => simp [limbsOf]
  | succ m ih =>
    rw [Nat.succ_add, limbsOf, limbsOf, ih, Nat.mul_succ, Nat.pow_add, Nat.mul_comm (2 ^ (W * m)),
      ← Nat.div_div_eq_div_mul, List.cons_append]

theorem limbsOf_zero (W n : Nat) : limbsOf W n 0 = List.replicate n 0 := by
  have hlimbs := limbsOf_valOf (replicate_zero_lt W n)
  rwa [valOf_replicate_zero, List.length_replicate] at hlimbs

/-- From the lowest limb up: its part of the number, and the rest shifted down with the carry. -/
theorem limbsOf_succ_add_mul (W n t x : Nat) :
    limbsOf W (n + 1) (t + 2 ^ W * x) = t % 2 ^ W :: limbsOf W n (x + t / 2 ^ W) := by
  rw [limbsOf, Nat.add_mul_mod_self_left, Nat.add_mul_div_left _ _ (Nat.two_pow_pos W),
    Nat.add_comm x]

/-- What is left above `n + 1` limbs, by way of the carry out of the lowest. -/
theorem div_succ_add_mul (W n t x : Nat) :
    (t + 2 ^ W * x) / 2 ^ (W * (n + 1)) = (x + t / 2 ^ W) / 2 ^ (W * n) := by
  rw [Nat.mul_succ, Nat.pow_add, Nat.mul_comm (2 ^ (W * n)), ← Nat.div_div_eq_div_mul,
    Nat.add_mul_div_left _ _ (Nat.two_pow_pos W), Nat.add_comm x]

theorem valOf_ne_zero_iff {W : Nat} {ls : List Nat} : valOf W ls ≠ 0 ↔ ∃ l ∈ ls, l ≠ 0 := by
  induction ls with
  | nil => simp [valOf]
  | cons l ls ih =>
    rw [List.exists_mem_cons_iff, ← ih, valOf]
    simp [imp_iff_not_or]

/-! ### The single inner pass (R154) -/

/-- "After the loop `val(R) + c * 2^T = a * limb_in`" (R154). -/
theorem mulLimb_eq (W d c : Nat) (as : List Nat) :
    mulLimb W d c as =
      (limbsOf W as.length (valOf W as * d + c), (valOf W as * d + c) / 2 ^ (W * as.length)) := by
  induction as generalizing c with
  | nil => simp [mulLimb, limbsOf, valOf]
  | cons a as ih =>
    have hsum : valOf W (a :: as) * d + c = (a * d + c) + 2 ^ W * (valOf W as * d) := by
      simp only [valOf]; ring
    rw [mulLimb, ih, hsum, List.length_cons, limbsOf_succ_add_mul, div_succ_add_mul]

/-! ### The schoolbook loop (R153) -/

/-- One row: the limbs of the running sum, and its carry in the position above them. -/
theorem mulRow_eq (W p c q : Nat) (rest : List Nat) {bs qs : List Nat}
    (hlength : bs.length = qs.length) :
    mulRow W p c bs (qs ++ q :: rest) =
      limbsOf W bs.length (p * valOf W bs + valOf W qs + c) ++
        (p * valOf W bs + valOf W qs + c) / 2 ^ (W * bs.length) :: rest := by
  induction bs generalizing c qs with
  | nil =>
    obtain rfl := List.length_eq_zero_iff.1 hlength.symm
    simp [mulRow, limbsOf, valOf]
  | cons b bs ih =>
    obtain _ | ⟨q', qs⟩ := qs
    · simp at hlength
    have hsum : p * valOf W (b :: bs) + valOf W (q' :: qs) + c =
        (p * b + q' + c) + 2 ^ W * (p * valOf W bs + valOf W qs) := by
      simp only [valOf]; ring
    rw [List.cons_append, mulRow, ih _ (Nat.succ_inj.1 hlength), hsum, List.length_cons,
      limbsOf_succ_add_mul, div_succ_add_mul, List.cons_append]

/-- A limb times a value below `2^(W*n)`, with such a value added, takes one limb more. -/
theorem mul_add_lt_of_limb {W n p b y : Nat} (hp : p < 2 ^ W) (hb : b < 2 ^ (W * n))
    (hy : y < 2 ^ (W * n)) : p * b + y < 2 ^ W * 2 ^ (W * n) :=
  calc p * b + y < p * 2 ^ (W * n) + 2 ^ (W * n) :=
        Nat.add_lt_add_of_le_of_lt (Nat.mul_le_mul_left p hb.le) hy
    _ = (p + 1) * 2 ^ (W * n) := (Nat.succ_mul ..).symm
    _ ≤ 2 ^ W * 2 ^ (W * n) := Nat.mul_le_mul_right _ hp

/-- One row over a working product whose low limbs spell `y` and whose next limb is still 0: it
settles the lowest limb of the running sum, and the window above it spells the quotient. -/
theorem mulRow_limbsOf {W p y : Nat} (q : Nat) (rest : List Nat) {bs : List Nat} (hp : p < 2 ^ W)
    (hbs : ∀ l ∈ bs, l < 2 ^ W) (hy : y < 2 ^ (W * bs.length)) :
    mulRow W p 0 bs (limbsOf W bs.length y ++ q :: rest) =
      (p * valOf W bs + y) % 2 ^ W ::
        (limbsOf W bs.length ((p * valOf W bs + y) / 2 ^ W) ++ rest) := by
  have htop : (p * valOf W bs + y) / 2 ^ (W * bs.length) < 2 ^ W :=
    Nat.div_lt_of_lt_mul
      ((mul_add_lt_of_limb hp (valOf_lt hbs) hy).trans_eq (Nat.mul_comm ..))
  calc mulRow W p 0 bs (limbsOf W bs.length y ++ q :: rest)
      = limbsOf W (bs.length + 1) (p * valOf W bs + y) ++ rest := by
        rw [mulRow_eq W p 0 q rest (length_limbsOf ..).symm, valOf_limbsOf_of_lt hy, Nat.add_zero,
          limbsOf_add, limbsOf, limbsOf, Nat.mod_eq_of_lt htop, List.append_assoc,
          List.singleton_append]
    _ = _ := by rw [limbsOf, List.cons_append]

/-- The rows for the limbs of `A` add `A * B` to what the working product spells. -/
theorem mulRows_eq {W y : Nat} {as bs : List Nat} (has : ∀ l ∈ as, l < 2 ^ W)
    (hbs : ∀ l ∈ bs, l < 2 ^ W) (hy : y < 2 ^ (W * bs.length)) :
    mulRows W as bs (limbsOf W bs.length y ++ List.replicate as.length 0) =
      limbsOf W (as.length + bs.length) (valOf W as * valOf W bs + y) := by
  induction as generalizing y with
  | nil => simp [mulRows, valOf]
  | cons a as ih =>
    obtain ⟨ha, has⟩ := List.forall_mem_cons.1 has
    have hquot : (a * valOf W bs + y) / 2 ^ W < 2 ^ (W * bs.length) :=
      Nat.div_lt_of_lt_mul (mul_add_lt_of_limb ha (valOf_lt hbs) hy)
    have hsum : valOf W (a :: as) * valOf W bs + y =
        (a * valOf W bs + y) + 2 ^ W * (valOf W as * valOf W bs) := by
      simp only [valOf]; ring
    rw [List.length_cons, List.replicate_succ, mulRows, mulRow_limbsOf 0 _ ha hbs hy, hsum,
      Nat.succ_add, limbsOf_succ_add_mul, ← ih has hquot]

/-- "The sum of `P[k] * 2^(W*k)` is the exact product" (R153). -/
theorem schoolbook_eq {W N : Nat} {as bs : List Nat} (hlengthA : as.length = N)
    (hlengthB : bs.length = N) (has : ∀ l ∈ as, l < 2 ^ W) (hbs : ∀ l ∈ bs, l < 2 ^ W) :
    schoolbook W N as bs = limbsOf W (N + N) (valOf W as * valOf W bs) := by
  have hrows := mulRows_eq has hbs (Nat.two_pow_pos _)
  rwa [limbsOf_zero, hlengthA, hlengthB, List.replicate_append_replicate, Nat.add_zero,
    ← Nat.two_mul N, ← schoolbook, Nat.two_mul] at hrows

theorem take_limbsOf_add (W m n x : Nat) : (limbsOf W (m + n) x).take m = limbsOf W m x := by
  rw [limbsOf_add, List.take_left' (length_limbsOf ..)]

/-- The flag looks at the discarded part: an upper limb is nonzero exactly when the product does
not fit (R151). -/
theorem schoolbookOverflow_limbsOf {W N x : Nat} (hx : x < 2 ^ (W * N) * 2 ^ (W * N)) :
    schoolbookOverflow N (limbsOf W (N + N) x) = true ↔ 2 ^ (W * N) ≤ x := by
  have hvalue : valOf W (limbsOf W N (x / 2 ^ (W * N))) = x / 2 ^ (W * N) :=
    valOf_limbsOf_of_lt (Nat.div_lt_of_lt_mul hx)
  calc schoolbookOverflow N (limbsOf W (N + N) x) = true
      ↔ ∃ l ∈ limbsOf W N (x / 2 ^ (W * N)), l ≠ 0 := by
        rw [schoolbookOverflow, limbsOf_add, List.drop_left' (length_limbsOf ..)]
        simp
    _ ↔ x / 2 ^ (W * N) ≠ 0 := by
        rw [← valOf_ne_zero_iff, hvalue]
    _ ↔ 2 ^ (W * N) ≤ x := by simp [Nat.div_eq_zero_iff]

/-! ### The obligation on the loops -/

/-- A wrapped number, by its limbs and by the test for what does not fit (R151, R152). -/
theorem exists_next_of_overflow {i : Instr} {s : State} {rd : Reg} {fl : Flags} {x : Nat}
    {ls : List Nat} {exceeds : Prop} [Decidable exceeds] (hls : ls = limbsOf s.W s.N x)
    (hexceeds : exceeds ↔ 2 ^ s.T ≤ x)
    (h : exec i s = writes rd (x % 2 ^ s.T) (fl ||| overflowOf s.T x) s) :
    ∃ t : State, exec i s = .next t ∧ (t.reg rd).limbs = ls ∧
      t.flags rd = fl ||| (if exceeds then 0x01#7 else 0#7) := by
  refine ⟨_, h, ?_, ?_⟩
  · rw [reg_of_writes rfl, hls]
    exact limbsOf_mod ..
  · rw [State.flags, reg_of_writes rfl, overflowOf_eq, if_congr hexceeds rfl rfl]

/-- Settles O54: both loops compute the exact product, whose part above `N` limbs is nonzero exactly
when it is `2^T` or more. -/
theorem schoolbookMultiplier : Obligations.SchoolbookMultiplier := by
  intro s rd ra rb hs ha
  have hlength := State.length_limbs hs
  have hproduct : schoolbook s.W s.N (s.reg ra).limbs (s.reg rb).limbs =
      limbsOf s.W (s.N + s.N) (s.value ra * s.value rb) :=
    schoolbook_eq (hlength ra) (hlength rb) (State.limbs_lt hs ra) (State.limbs_lt hs rb)
  have hpass : mulLimb s.W s.limbIn 0 (s.reg ra).limbs =
      (limbsOf s.W s.N (s.value ra * s.limbIn), s.value ra * s.limbIn / 2 ^ s.T) := by
    rw [mulLimb_eq, hlength]
    rfl
  rw [hproduct, hpass]
  refine ⟨fun hb => exists_next_of_overflow (take_limbsOf_add ..) ?_ (exec_mul_of_constructed ha hb),
    exists_next_of_overflow rfl ?_ (exec_muls_of_constructed ha)⟩
  · exact schoolbookOverflow_limbsOf (Nat.mul_lt_mul'' (s.value_lt hs ra) (s.value_lt hs rb))
  · simp [Nat.div_eq_zero_iff]

end Sys2Proof.Machine
end

section
/-! PROOFS. The divider as commands (spec/44_divide.md R161 to R164, R168), and the division identity
of R167(a). -/

namespace Sys2Proof.Machine

/-! ### What the four commands answer -/

theorem accumulate_none (fa : Flags) : accumulate fa 0 = fa := BitVec.or_zero

theorem accumulate₂_none (fa fb : Flags) : accumulate₂ fa fb 0 = fa ||| fb := BitVec.or_zero

section
variable {s : State} {rd ra rb : Reg} (ha : s.constructed ra = true)
include ha

theorem exec_divs_of_constructed : exec (.divs rd ra) s =
    withDivisor s.limbIn s (writes rd (s.value ra / s.limbIn) (s.flags ra) s) := by
  rw [exec, execDivs, withSource_of_constructed ha, accumulate_none]

theorem exec_rems_of_constructed : exec (.rems rd ra) s =
    withDivisor s.limbIn s (writes rd (s.value ra % s.limbIn) (s.flags ra) s) := by
  rw [exec, execRems, withSource_of_constructed ha, accumulate_none]

variable (hb : s.constructed rb = true)
include hb

theorem exec_div_of_constructed : exec (.div rd ra rb) s =
    withDivisor (s.value rb) s
      (writes rd (s.value ra / s.value rb) (s.flags ra ||| s.flags rb) s) := by
  rw [exec, execDiv, withSources_of_constructed ha hb, accumulate₂_none]

theorem exec_rem_of_constructed : exec (.rem rd ra rb) s =
    withDivisor (s.value rb) s
      (writes rd (s.value ra % s.value rb) (s.flags ra ||| s.flags rb) s) := by
  rw [exec, execRem, withSources_of_constructed ha hb, accumulate₂_none]

end

section
variable {i : Instr} {s : State} {rd : Reg} {a b : Nat} {fl : Flags}

theorem faultsWith_of_divisor_zero {go : Result} (h : exec i s = withDivisor b s go) (hb : b = 0) :
    FaultsWith i s .divideByZero := by
  rw [hb, withDivisor_zero] at h
  exact faultsWith_of_exec h

/-- A quotient is no larger than its dividend, so nothing is truncated (R160). -/
theorem writesValue_of_quotient (h : exec i s = withDivisor b s (writes rd (a / b) fl s))
    (ha : a < 2 ^ s.T) (hb : b ≠ 0) : WritesValue i s rd (a / b) fl := by
  rw [withDivisor_of_ne hb] at h
  exact writesValue_of_exec h ((Nat.div_le_self a b).trans_lt ha)

/-- A remainder is no larger than its dividend either (R160). -/
theorem writesValue_of_remainder (h : exec i s = withDivisor b s (writes rd (a % b) fl s))
    (ha : a < 2 ^ s.T) (hb : b ≠ 0) : WritesValue i s rd (a % b) fl := by
  rw [withDivisor_of_ne hb] at h
  exact writesValue_of_exec h ((Nat.mod_le a b).trans_lt ha)

end

/-! ### The obligations on the four commands -/

/-- Settles O15: the constructed checks, the divisor check, then a quotient that fits. -/
theorem divCommand : Obligations.DivCommand :=
  ⟨fun rd ra rb => decodeOfEncode (.div rd ra rb) rfl, fun s _ ra _ hs =>
    ⟨faultsWith_of_needs_needs rfl,
      fun ha hb => faultsWith_of_divisor_zero (exec_div_of_constructed ha hb),
      fun ha hb => writesValue_of_quotient (exec_div_of_constructed ha hb) (s.value_lt hs ra)⟩⟩

/-- Settles O16: as DIV, with the limb on the port for the divisor. -/
theorem divsCommand : Obligations.DivsCommand :=
  ⟨fun rd ra => decodeOfEncode (.divs rd ra) rfl, fun s _ ra hs =>
    ⟨faultsWith_of_needs rfl,
      fun ha => faultsWith_of_divisor_zero (exec_divs_of_constructed ha),
      fun ha => writesValue_of_quotient (exec_divs_of_constructed ha) (s.value_lt hs ra)⟩⟩

/-- Settles O17: the checks of DIV, then a remainder that fits. -/
theorem remCommand : Obligations.RemCommand :=
  ⟨fun rd ra rb => decodeOfEncode (.rem rd ra rb) rfl, fun s _ ra _ hs =>
    ⟨faultsWith_of_needs_needs rfl,
      fun ha hb => faultsWith_of_divisor_zero (exec_rem_of_constructed ha hb),
      fun ha hb => writesValue_of_remainder (exec_rem_of_constructed ha hb) (s.value_lt hs ra)⟩⟩

/-- Settles O18: as REM, with the limb on the port for the divisor. -/
theorem remsCommand : Obligations.RemsCommand :=
  ⟨fun rd ra => decodeOfEncode (.rems rd ra) rfl, fun s _ ra hs =>
    ⟨faultsWith_of_needs rfl,
      fun ha => faultsWith_of_divisor_zero (exec_rems_of_constructed ha),
      fun ha => writesValue_of_remainder (exec_rems_of_constructed ha) (s.value_lt hs ra)⟩⟩

/-! ### What a register holds along a run of commands -/

/-- Register `r` holds the number `x` with flags `fl`. -/
structure State.Holds (s : State) (r : Reg) (x : Nat) (fl : Flags) : Prop where
  constructed : s.constructed r = true
  value : s.value r = x
  flags : s.flags r = fl

section
variable {i : Instr} {s t : State} {rd ra rb : Reg} {a b : Nat} {fa fb : Flags}

theorem State.Holds.of_writesValue (hw : WritesValue i s rd a fa) (h : exec i s = .next t) :
    t.Holds rd a fa := by
  obtain ⟨u, hu, hconstructed, hvalue, hflags, -⟩ := hw
  obtain rfl : u = t := Host.Outcome.next.inj (hu.symm.trans h)
  exact ⟨hconstructed, hvalue, hflags⟩

/-- What a register holds outlasts a command with another destination. -/
theorem State.Holds.of_exec (hr : s.Holds ra a fa) (h : exec i s = .next t)
    (hne : i.writesTo ≠ some ra) : t.Holds ra a fa := by
  have hreg : t.reg ra = s.reg ra := (shape_of_exec h).reg_eq hne
  have hW : t.W = s.W := congrArg Config.W (exec_cfg h)
  refine ⟨?_, ?_, ?_⟩
  · rw [State.constructed, hreg, ← hr.constructed, State.constructed]
  · rw [State.value, hreg, hW, ← hr.value, State.value]
  · rw [State.flags, hreg, ← hr.flags, State.flags]

/-- A number that fits is written as it is, and sets no flag. -/
theorem writesValue_of_lt (h : exec i s = writes rd (a % 2 ^ s.T) (fa ||| overflowOf s.T a) s)
    (hlt : a < 2 ^ s.T) : WritesValue i s rd a fa := by
  rw [Nat.mod_eq_of_lt hlt, overflowOf_of_lt hlt, BitVec.or_zero] at h
  exact writesValue_of_exec h hlt

section
variable (ha : s.Holds ra a fa) (hb : s.Holds rb b fb)
include ha hb

theorem holds_of_div (hs : s.wf = true) (hne : b ≠ 0) (h : exec (.div rd ra rb) s = .next t) :
    t.Holds rd (a / b) (fa ||| fb) := by
  obtain ⟨ha, rfl, rfl⟩ := ha
  obtain ⟨hb, rfl, rfl⟩ := hb
  exact .of_writesValue
    (writesValue_of_quotient (exec_div_of_constructed ha hb) (s.value_lt hs ra) hne) h

theorem holds_of_rem (hs : s.wf = true) (hne : b ≠ 0) (h : exec (.rem rd ra rb) s = .next t) :
    t.Holds rd (a % b) (fa ||| fb) := by
  obtain ⟨ha, rfl, rfl⟩ := ha
  obtain ⟨hb, rfl, rfl⟩ := hb
  exact .of_writesValue
    (writesValue_of_remainder (exec_rem_of_constructed ha hb) (s.value_lt hs ra) hne) h

theorem holds_of_mul (hlt : a * b < 2 ^ s.T) (h : exec (.mul rd ra rb) s = .next t) :
    t.Holds rd (a * b) (fa ||| fb) := by
  obtain ⟨ha, rfl, rfl⟩ := ha
  obtain ⟨hb, rfl, rfl⟩ := hb
  exact .of_writesValue (writesValue_of_lt (exec_mul_of_constructed ha hb) hlt) h

theorem holds_of_add (hlt : a + b < 2 ^ s.T) (h : exec (.add rd ra rb) s = .next t) :
    t.Holds rd (a + b) (fa ||| fb) := by
  obtain ⟨ha, rfl, rfl⟩ := ha
  obtain ⟨hb, rfl, rfl⟩ := hb
  exact .of_writesValue (writesValue_of_lt (exec_add_of_constructed ha hb) hlt) h

end

end

/-! ### The division identity (R167) -/

/-- Settles O48: the product `q * b` is at most the dividend and the sum `q * b + r` is the dividend,
so both fit and neither MUL nor ADD sets OVERFLOW. -/
theorem divisionIdentity : Obligations.DivisionIdentity := by
  intro s s₁ s₂ s₃ s₄ q r p ra rb hs ha hb hne hqa hqb hrq hrb hpr h₁ h₂ h₃ h₄
  have hT₂ : s₂.T = s.T := congrArg Config.T ((exec_cfg h₂).trans (exec_cfg h₁))
  have hT₃ : s₃.T = s.T := (congrArg Config.T (exec_cfg h₃)).trans hT₂
  have hlt : s.value ra / s.value rb * s.value rb + s.value ra % s.value rb < 2 ^ s.T := by
    rw [Nat.div_add_mod']
    exact s.value_lt hs ra
  have hra : s.Holds ra (s.value ra) (s.flags ra) := ⟨ha, rfl, rfl⟩
  have hrb₀ : s.Holds rb (s.value rb) (s.flags rb) := ⟨hb, rfl, rfl⟩
  have hrb₁ := hrb₀.of_exec h₁ (mt Option.some.inj hqb)
  have hrb₂ := hrb₁.of_exec h₂ (mt Option.some.inj hrb)
  have hq₁ := holds_of_div hra hrb₀ hs hne h₁
  have hq₂ := hq₁.of_exec h₂ (mt Option.some.inj hrq)
  have hr₂ := holds_of_rem (hra.of_exec h₁ (mt Option.some.inj hqa)) hrb₁ (exec_wf hs h₁) hne h₂
  have hr₃ := hr₂.of_exec h₃ (mt Option.some.inj hpr)
  have hp₃ := holds_of_mul hq₂ hrb₂ (hT₂ ▸ (Nat.le_add_right ..).trans_lt hlt) h₃
  have hp₄ := holds_of_add hp₃ hr₃ (hT₃ ▸ hlt) h₄
  refine ⟨?_, ?_, ?_⟩
  · rw [hp₄.value, Nat.div_add_mod']
  · rw [hr₂.value]
    exact Nat.mod_lt _ (Nat.pos_of_ne_zero hne)
  · rw [hp₄.flags, BitVec.or_assoc (s.flags ra), BitVec.or_self, BitVec.or_self]

end Sys2Proof.Machine
end

section
/-! PROOFS. The division loops (spec/44_divide.md R165, R166): each computes the quotient and the
remainder of floor division. -/

namespace Sys2Proof.Machine

/-! ### Restoring division (R165) -/

/-- From the remainder `r` the loop divides `r` followed by the low `k` bits of the dividend, and adds
the quotient to `q`. -/
theorem restoring_eq {a b : Nat} (k q : Nat) {r : Nat} (hr : r < b) :
    restoring a b k q r = (q + (r * 2 ^ k + a % 2 ^ k) / b, (r * 2 ^ k + a % 2 ^ k) % b) := by
  induction k generalizing q r with
  | zero => simp [restoring, Nat.mod_one, Nat.div_eq_of_lt hr, Nat.mod_eq_of_lt hr]
  | succ k ih =>
    have hnext : r * 2 ^ (k + 1) + a % 2 ^ (k + 1) =
        (2 * r + a / 2 ^ k % 2) * 2 ^ k + a % 2 ^ k := by
      rw [Nat.mod_pow_succ]
      ring
    rw [restoring, hnext]
    split
    case isTrue hle =>
      obtain ⟨r', hr'⟩ := Nat.exists_eq_add_of_le hle
      have hsub : (b + r') * 2 ^ k + a % 2 ^ k = r' * 2 ^ k + a % 2 ^ k + b * 2 ^ k := by ring
      rw [hr', Nat.add_sub_cancel_left, ih _ (by omega), hsub,
        Nat.add_mul_div_left _ _ (Nat.zero_lt_of_lt hr), Nat.add_mul_mod_self_left, Nat.add_assoc,
        Nat.add_comm (2 ^ k)]
    case isFalse hgt => rw [ih _ (Nat.lt_of_not_le hgt)]

/-- "At `k = 0` this is `a = q * b + r`" (R165). -/
theorem restoring_eq_div_mod {T a b : Nat} (ha : a < 2 ^ T) (hb : b ≠ 0) :
    restoring a b T 0 0 = (a / b, a % b) := by
  rw [restoring_eq T 0 (Nat.pos_of_ne_zero hb), Nat.mod_eq_of_lt ha, Nat.zero_mul, Nat.zero_add,
    Nat.zero_add]

/-! ### Short division (R166) -/

/-- `Q` spells the quotient and `r` is the remainder; "`Q[i]` fits a limb because `r <= d - 1` gives
`t <= d * 2^W - 1`" (R166). -/
theorem shortDivide_eq {W d : Nat} (hd : d ≠ 0) {as : List Nat} (has : ∀ l ∈ as, l < 2 ^ W) :
    shortDivide W d as = (limbsOf W as.length (valOf W as / d), valOf W as % d) := by
  induction as with
  | nil => simp [shortDivide, limbsOf, valOf]
  | cons a as ih =>
    obtain ⟨ha, has⟩ := List.forall_mem_cons.1 has
    have hpos : 0 < d := Nat.pos_of_ne_zero hd
    have hvalue : valOf W (a :: as) =
        valOf W as % d * 2 ^ W + a + d * (2 ^ W * (valOf W as / d)) := by
      rw [valOf]
      nth_rw 1 [← Nat.mod_add_div (valOf W as) d]
      ring
    have hdigit : (valOf W as % d * 2 ^ W + a) / d < 2 ^ W := by
      refine Nat.div_lt_of_lt_mul ?_
      calc valOf W as % d * 2 ^ W + a < (valOf W as % d + 1) * 2 ^ W := by
            rw [Nat.succ_mul]
            exact Nat.add_lt_add_left ha _
        _ ≤ d * 2 ^ W := Nat.mul_le_mul_right _ (Nat.mod_lt _ hpos)
    simp only [shortDivide, ih has]
    rw [List.length_cons, hvalue, Nat.add_mul_div_left _ _ hpos, Nat.add_mul_mod_self_left,
      limbsOf_succ_add_mul, Nat.mod_eq_of_lt hdigit, Nat.div_eq_of_lt hdigit, Nat.add_zero]

/-! ### The obligation on the loops -/

/-- Settles O55: DIV and REM by the restoring loop over the `T` bits of the dividend, DIVS and REMS
by short division of its limbs. -/
theorem dividerLoops : Obligations.DividerLoops := by
  intro s rd ra rb hs ha
  have hlt := s.value_lt hs ra
  refine ⟨fun hb hne => ?_, fun hne => ?_⟩
  · have hdiv := exec_div_of_constructed (rd := rd) ha hb
    have hrem := exec_rem_of_constructed (rd := rd) ha hb
    rw [restoring_eq_div_mod hlt hne]
    obtain ⟨t, ht, -, hquotient, -⟩ := writesValue_of_quotient hdiv hlt hne
    obtain ⟨u, hu, -, hremainder, -⟩ := writesValue_of_remainder hrem hlt hne
    exact ⟨⟨t, ht, hquotient⟩, ⟨u, hu, hremainder⟩⟩
  · have hdivs := exec_divs_of_constructed (rd := rd) ha
    have hrems := exec_rems_of_constructed (rd := rd) ha
    rw [shortDivide_eq hne (State.limbs_lt hs ra), State.length_limbs hs]
    obtain ⟨u, hu, -, hremainder, -⟩ := writesValue_of_remainder hrems hlt hne
    rw [withDivisor_of_ne hne] at hdivs
    refine ⟨⟨_, hdivs, ?_⟩, ⟨u, hu, hremainder⟩⟩
    rw [reg_of_writes rfl]
    rfl

end Sys2Proof.Machine
end

section
/-! PROOFS. The shifter as commands (spec/45_shift.md R175 to R177), the mirrored directions, and
the round trips of R180. -/

namespace Sys2Proof.Machine

/-! ### The two cores, by magnitude (R175) -/

theorem newly_decide (f : Flag) (p : Prop) [Decidable p] :
    newly f (decide p) = if p then f.mask else 0 :=
  ite_congr decide_eq_true_eq (fun _ => rfl) (fun _ => rfl)

section
variable {T a m : Nat}

theorem shlCore_of_lt (hm : m < T) :
    shlCore T a m = (a * 2 ^ m % 2 ^ T, if 2 ^ T ≤ a * 2 ^ m then 0x20#7 else 0#7) := by
  rw [shlCore, if_neg hm.not_ge, newly_decide]
  rfl

theorem shlCore_of_le (hm : T ≤ m) : shlCore T a m = (0, 0x20#7) := if_pos hm

theorem shrCore_of_lt (hm : m < T) :
    shrCore T a m = (a / 2 ^ m, if a % 2 ^ m ≠ 0 then 0x40#7 else 0#7) := by
  rw [shrCore, if_neg hm.not_ge, newly_decide]
  rfl

theorem shrCore_of_le (hm : T ≤ m) : shrCore T a m = (0, 0x40#7) := if_pos hm

/-- Through a magnitude of 0 the two directions agree: nothing leaves at either end. -/
theorem shlCore_zero_eq_shrCore_zero (hT : 0 < T) (ha : a < 2 ^ T) :
    shlCore T a 0 = shrCore T a 0 := by
  simp [shlCore_of_lt hT, shrCore_of_lt hT, Nat.mod_eq_of_lt ha, ha, Nat.mod_one]

/-! ### The signed amount chooses the core (R176, R177) -/

theorem shiftLeft_natCast : shiftLeft T a m = shlCore T a m := if_pos (Int.natCast_nonneg m)

theorem shiftRight_natCast : shiftRight T a m = shrCore T a m := if_pos (Int.natCast_nonneg m)

theorem shiftLeft_neg (hm : 0 < m) : shiftLeft T a (-m) = shrCore T a m := by
  rw [shiftLeft, if_neg (by omega), neg_neg, Int.toNat_natCast]

theorem shiftRight_neg (hm : 0 < m) : shiftRight T a (-m) = shlCore T a m := by
  rw [shiftRight, if_neg (by omega), neg_neg, Int.toNat_natCast]

theorem shiftRight_eq_shiftLeft_neg (hT : 0 < T) (ha : a < 2 ^ T) (n : Int) :
    shiftRight T a n = shiftLeft T a (-n) := by
  obtain ⟨m, rfl | rfl⟩ := n.eq_nat_or_neg <;> obtain rfl | hm := m.eq_zero_or_pos
  · exact (shlCore_zero_eq_shrCore_zero hT ha).symm
  · rw [shiftRight_natCast, shiftLeft_neg hm]
  · exact (shlCore_zero_eq_shrCore_zero hT ha).symm
  · rw [shiftRight_neg hm, neg_neg, shiftLeft_natCast]

end

/-! ### The bounds of the width (R4) -/

theorem State.T_pos {s : State} (hs : s.wf = true) : 0 < s.T :=
  Nat.pos_of_ne_zero fun hT => (hT ▸ State.one_lt_two_pow_T hs).false

theorem State.T_le_two_pow_31 {s : State} (hs : s.wf = true) : s.T ≤ 2 ^ 31 := by
  obtain ⟨hcfg, -, -, -⟩ := State.wf_iff.1 hs
  simp only [Config.wf, Bool.and_eq_true, decide_eq_true_eq] at hcfg
  obtain ⟨-, hT⟩ := hcfg
  exact hT.trans (by decide)

/-! ### What the two commands answer -/

section
variable {s : State} {rd ra : Reg} {n : Int} {x : Nat} {new : Flags}
  (ha : s.constructed ra = true) (hn : s.port.amtIn.toInt = n)
include ha hn

theorem exec_shl_of_amount (h : shiftLeft s.T (s.value ra) n = (x, new)) :
    exec (.shl rd ra) s = writes rd x (s.flags ra ||| new) s := by
  rw [exec, execShl, withSource_of_constructed ha, State.amount, hn, h]
  rfl

theorem exec_shr_of_amount (h : shiftRight s.T (s.value ra) n = (x, new)) :
    exec (.shr rd ra) s = writes rd x (s.flags ra ||| new) s := by
  rw [exec, execShr, withSource_of_constructed ha, State.amount, hn, h]
  rfl

end

/-! ### The obligations on the two commands -/

/-- Settles O19: the sign of the amount chooses the core, and the core tests the magnitude against
`T`; either result is below `2^T`. -/
theorem shlCommand : Obligations.ShlCommand := by
  refine ⟨fun rd ra => decodeOfEncode (.shl rd ra) rfl, fun s rd ra hs =>
    ⟨faultsWith_of_needs rfl, fun ha m => ⟨fun hn hm => ?_, fun hn hm => ?_, fun hn hpos hm => ?_,
      fun hn hm => ?_⟩⟩⟩
  · exact writesValue_of_exec
      (exec_shl_of_amount ha hn (shiftLeft_natCast.trans (shlCore_of_lt hm)))
      (Nat.mod_lt _ (Nat.two_pow_pos _))
  · exact writesValue_of_exec
      (exec_shl_of_amount ha hn (shiftLeft_natCast.trans (shlCore_of_le hm))) (Nat.two_pow_pos _)
  · exact writesValue_of_exec
      (exec_shl_of_amount ha hn ((shiftLeft_neg hpos).trans (shrCore_of_lt hm)))
      ((Nat.div_le_self ..).trans_lt (s.value_lt hs ra))
  · have hpos : 0 < m := (State.T_pos hs).trans_le hm
    exact writesValue_of_exec
      (exec_shl_of_amount ha hn ((shiftLeft_neg hpos).trans (shrCore_of_le hm))) (Nat.two_pow_pos _)

/-- Settles O20: as SHL, with the cores exchanged. -/
theorem shrCommand : Obligations.ShrCommand := by
  refine ⟨fun rd ra => decodeOfEncode (.shr rd ra) rfl, fun s rd ra hs =>
    ⟨faultsWith_of_needs rfl, fun ha m => ⟨fun hn hm => ?_, fun hn hm => ?_, fun hn hpos hm => ?_,
      fun hn hm => ?_⟩⟩⟩
  · exact writesValue_of_exec
      (exec_shr_of_amount ha hn (shiftRight_natCast.trans (shrCore_of_lt hm)))
      ((Nat.div_le_self ..).trans_lt (s.value_lt hs ra))
  · exact writesValue_of_exec
      (exec_shr_of_amount ha hn (shiftRight_natCast.trans (shrCore_of_le hm))) (Nat.two_pow_pos _)
  · exact writesValue_of_exec
      (exec_shr_of_amount ha hn ((shiftRight_neg hpos).trans (shlCore_of_lt hm)))
      (Nat.mod_lt _ (Nat.two_pow_pos _))
  · have hpos : 0 < m := (State.T_pos hs).trans_le hm
    exact writesValue_of_exec
      (exec_shr_of_amount ha hn ((shiftRight_neg hpos).trans (shlCore_of_le hm)))
      (Nat.two_pow_pos _)

/-! ### The mirrored directions (R177) -/

/-- SHR by `n` and SHL by `-n` make the same check and write the same number and flags. -/
theorem rewired_shr_shl_neg {s : State} (hs : s.wf = true) (rd ra : Reg)
    (hne : s.port.amtIn ≠ 0x80000000#32) :
    Related (Rewired s.port.limbIn (-s.port.amtIn)) (exec (.shr rd ra) s)
      (exec (.shl rd ra) (s.withAmtIn (-s.port.amtIn))) := by
  have hneg : (-s.port.amtIn).toInt = -s.port.amtIn.toInt := BitVec.toInt_neg_of_ne_intMin hne
  have hshift : shiftLeft s.T (s.value ra) (-s.port.amtIn).toInt =
      shiftRight s.T (s.value ra) s.amount := by
    rw [hneg]
    exact (shiftRight_eq_shiftLeft_neg (State.T_pos hs) (s.value_lt hs ra) _).symm
  refine rewired_needs ?_
  change Related _ _ (writes rd (shiftLeft s.T (s.value ra) (-s.port.amtIn).toInt).1
    (accumulate (s.flags ra) (shiftLeft s.T (s.value ra) (-s.port.amtIn).toInt).2) _)
  rw [hshift]
  exact rewired_writes ..

/-- Settles O50: the same command on a rewired port; the one amount without an opposite has a
magnitude above `T` in both directions. -/
theorem shiftDirectionsMirror : Obligations.ShiftDirectionsMirror := by
  intro s t u rd ra hs ht
  refine ⟨fun hne hu r => ?_, fun ha hamt hu => ?_⟩
  · obtain ⟨u', hu', rfl⟩ := (ht ▸ rewired_shr_shl_neg hs rd ra hne).exists_next
    rw [← Host.Outcome.next.inj (hu'.symm.trans hu)]
    rfl
  · have hn : s.port.amtIn.toInt = -((2 ^ 31 : Nat) : Int) := by
      rw [hamt]
      decide
    obtain ⟨-, hshl⟩ := shlCommand.2 s rd ra hs
    obtain ⟨-, -, -, hshl⟩ := hshl ha (2 ^ 31)
    obtain ⟨-, hshr⟩ := shrCommand.2 s rd ra hs
    obtain ⟨-, -, -, hshr⟩ := hshr ha (2 ^ 31)
    have htrd := State.Holds.of_writesValue (hshr hn (State.T_le_two_pow_31 hs)) ht
    have hurd := State.Holds.of_writesValue (hshl hn (State.T_le_two_pow_31 hs)) hu
    exact ⟨htrd.value, hurd.value, htrd.flags, hurd.flags⟩

/-! ### The round trips (R180) -/

/-- A bit of a newly set carry, where the operand had none. -/
theorem getLsbD_or_ite_eq_false_iff {fa mask : Flags} {k : Nat} (hfa : fa.getLsbD k = false)
    (hmask : mask.getLsbD k = true) {p : Prop} [Decidable p] :
    (fa ||| if p then mask else 0#7).getLsbD k = false ↔ ¬p := by
  split
  next hp => simp [hmask, hp]
  next hp => simp [hfa, hp]

section
variable {T a n : Nat} (hn : n < T)
include hn

theorem two_pow_sub_mul_two_pow : 2 ^ (T - n) * 2 ^ n = 2 ^ T := by
  rw [← Nat.pow_add, Nat.sub_add_cancel hn.le]

/-- What the left shift leaves is the low part of the operand, moved up. -/
theorem mul_two_pow_mod : a * 2 ^ n % 2 ^ T = a % 2 ^ (T - n) * 2 ^ n := by
  rw [← two_pow_sub_mul_two_pow hn, Nat.mul_mod_mul_right]

/-- A left shift carries exactly when the part above bit `T - n` is not 0 (R178). -/
theorem two_pow_le_mul_two_pow : 2 ^ T ≤ a * 2 ^ n ↔ 2 ^ (T - n) ≤ a := by
  rw [← two_pow_sub_mul_two_pow hn, Nat.mul_le_mul_right_iff (Nat.two_pow_pos n)]

end

section
variable {s t : State} {rd ra : Reg} {n a : Nat} {fa : Flags} (hs : s.wf = true)
  (hn : s.port.amtIn.toInt = n) (hlt : n < s.T) (hr : s.Holds ra a fa)
include hs hn hlt hr

theorem holds_of_shl (h : exec (.shl rd ra) s = .next t) :
    t.Holds rd (a % 2 ^ (s.T - n) * 2 ^ n)
      (fa ||| if 2 ^ (s.T - n) ≤ a then 0x20#7 else 0#7) := by
  obtain ⟨ha, rfl, rfl⟩ := hr
  obtain ⟨-, hshl⟩ := shlCommand.2 s rd ra hs
  obtain ⟨hshl, -⟩ := hshl ha n
  simpa only [mul_two_pow_mod hlt, two_pow_le_mul_two_pow hlt] using
    State.Holds.of_writesValue (hshl hn hlt) h

theorem holds_of_shr (h : exec (.shr rd ra) s = .next t) :
    t.Holds rd (a / 2 ^ n) (fa ||| if a % 2 ^ n ≠ 0 then 0x40#7 else 0#7) := by
  obtain ⟨ha, rfl, rfl⟩ := hr
  obtain ⟨-, hshr⟩ := shrCommand.2 s rd ra hs
  obtain ⟨hshr, -⟩ := hshr ha n
  exact .of_writesValue (hshr hn hlt) h

end

/-- Settles O49: the second shift meets only the zeros the first brought in, so it sets nothing;
what is missing from the value is what the first carried out. -/
theorem shiftRoundTrip : Obligations.ShiftRoundTrip := by
  intro s t u rd ra n hs ha hn hlt
  have hra : s.Holds ra (s.value ra) (s.flags ra) := ⟨ha, rfl, rfl⟩
  have hkept {i : Instr} (h : exec i s = .next t) :
      t.wf = true ∧ t.port.amtIn.toInt = n ∧ t.T = s.T :=
    ⟨exec_wf hs h, (shape_of_exec h).port_eq ▸ hn, congrArg Config.T (exec_cfg h)⟩
  refine ⟨fun ht hu => ?_, fun ht hu => ?_⟩
  · obtain ⟨htwf, htn, hT⟩ := hkept ht
    have htrd := holds_of_shl hs hn hlt hra ht
    have hurd := holds_of_shr htwf htn (hT ▸ hlt) htrd hu
    have hvalue : u.value rd = s.value ra % 2 ^ (s.T - n) := by
      rw [hurd.value, Nat.mul_div_cancel _ (Nat.two_pow_pos n)]
    refine ⟨hvalue, ?_, fun hfa => ?_⟩
    · have hnone : ¬s.value ra % 2 ^ (s.T - n) * 2 ^ n % 2 ^ n ≠ 0 := by simp
      rw [hurd.flags, if_neg hnone, BitVec.or_zero, htrd.flags]
    · rw [hvalue, htrd.flags, getLsbD_or_ite_eq_false_iff hfa (by decide), not_le,
        Nat.mod_eq_iff_lt (Nat.two_pow_pos _).ne']
  · obtain ⟨htwf, htn, hT⟩ := hkept ht
    have htrd := holds_of_shr hs hn hlt hra ht
    have hurd := holds_of_shl htwf htn (hT ▸ hlt) htrd hu
    have hfits : s.value ra / 2 ^ n < 2 ^ (s.T - n) := by
      rw [Nat.div_lt_iff_lt_mul (Nat.two_pow_pos n), two_pow_sub_mul_two_pow hlt]
      exact s.value_lt hs ra
    have hvalue : u.value rd = s.value ra - s.value ra % 2 ^ n := by
      rw [hurd.value, hT, Nat.mod_eq_of_lt hfits, Nat.div_mul_self_eq_mod_sub_self]
    refine ⟨hvalue, ?_, fun hfa => ?_⟩
    · rw [hurd.flags, hT, if_neg hfits.not_ge, BitVec.or_zero, htrd.flags]
    · rw [hvalue, htrd.flags, getLsbD_or_ite_eq_false_iff hfa (by decide), not_not]
      have := Nat.mod_le (s.value ra) (2 ^ n)
      omega

end Sys2Proof.Machine
end

section
/-! PROOFS. The limb-level shifter (spec/45_shift.md R179): each result limb joins two neighbouring
limbs of the operand, and is thereby a window of `W` bits of its number; a carry looks at the whole
limbs and the part of a limb that leave. -/

namespace Sys2Proof.Machine

/-! ### One limb of a number (R8) -/

/-- Limb `k` is `(a div 2^(W*k)) mod 2^W`, and 0 above the top (R8, R179). -/
theorem limbAt_natCast {W : Nat} {as : List Nat} (has : ∀ l ∈ as, l < 2 ^ W) (k : Nat) :
    limbAt as k = valOf W as / 2 ^ (W * k) % 2 ^ W := by
  rw [limbAt, if_pos (Int.natCast_nonneg k), Int.toNat_natCast, List.getD_eq_getElem?_getD]
  by_cases hk : k < as.length
  · nth_rw 1 [← limbsOf_valOf has]
    rw [limbsOf_getElem?, if_pos hk, Option.getD_some]
  · have hlt : valOf W as < 2 ^ (W * k) :=
      (valOf_lt has).trans_le (Nat.pow_le_pow_right (by decide)
        (Nat.mul_le_mul_left W (Nat.le_of_not_lt hk)))
    rw [List.getElem?_eq_none (Nat.le_of_not_lt hk), Nat.div_eq_of_lt hlt, Nat.zero_mod,
      Option.getD_none]

theorem limbAt_of_neg {i : Int} (hi : i < 0) (as : List Nat) : limbAt as i = 0 := if_neg hi.not_ge

theorem mem_limbsOf_iff {W n x l : Nat} :
    l ∈ limbsOf W n x ↔ ∃ k < n, x / 2 ^ (W * k) % 2 ^ W = l := by
  simp [List.mem_iff_getElem?, limbsOf_getElem?]

/-- A sequence is given by its limbs. -/
theorem map_range_eq_limbsOf {W n x : Nat} {f : Nat → Nat}
    (hf : ∀ i, f i = x / 2 ^ (W * i) % 2 ^ W) : (List.range n).map f = limbsOf W n x := by
  refine List.ext_getElem? fun i => ?_
  rw [limbsOf_getElem?, List.getElem?_map, ← hf]
  split
  next hi => rw [List.getElem?_range hi, Option.map_some]
  next hi => rw [List.getElem?_eq_none (by simpa using hi), Option.map_none]

/-! ### Windows on a number -/

/-- Bit `p` of `x`, taken as 0 below bit 0. -/
def bitAt (x : Nat) (p : Int) : Bool := decide (0 ≤ p) && x.testBit p.toNat

theorem bitAt_natCast (x p : Nat) : bitAt x p = x.testBit p := by simp [bitAt]

theorem bitAt_of_neg {p : Int} (hp : p < 0) (x : Nat) : bitAt x p = false := by
  simp [bitAt, hp.not_ge]

theorem bitAt_sub (x p m : Nat) : bitAt x (p - m) = (x * 2 ^ m).testBit p := by
  rw [Nat.testBit_mul_two_pow]
  by_cases hle : m ≤ p
  · rw [← Int.natCast_sub hle, bitAt_natCast, decide_eq_true hle, Bool.true_and]
  · rw [bitAt_of_neg (by omega), decide_eq_false hle, Bool.false_and]

section
variable {W : Nat} {as : List Nat} (has : ∀ l ∈ as, l < 2 ^ W)
include has

/-- The bits of limb `i` stand from bit `W * i` of the number on, for a limb below limb 0 too. -/
theorem testBit_limbAt (i : Int) (j : Nat) :
    (limbAt as i).testBit j = (decide (j < W) && bitAt (valOf W as) (W * i + j)) := by
  obtain hi | ⟨k, rfl⟩ := (lt_or_ge i 0).imp_right Int.eq_ofNat_of_zero_le
  · have hbelow (hj : j < W) : bitAt (valOf W as) (W * i + j) = false :=
      bitAt_of_neg (by nlinarith) _
    rw [limbAt_of_neg hi, Nat.zero_testBit, eq_comm, Bool.and_eq_false_imp, decide_eq_true_eq]
    exact hbelow
  · rw [limbAt_natCast has, Nat.testBit_mod_two_pow, Nat.testBit_div_two_pow]
    norm_cast
    rw [bitAt_natCast, Nat.add_comm]

/-- Two neighbouring limbs, joined at bit `r` of the lower one, are `W` bits of the number. -/
theorem testBit_join_limbs (q : Int) {r : Nat} (hr : r ≤ W) (j : Nat) :
    (limbAt as q / 2 ^ r ||| limbAt as (q + 1) * 2 ^ (W - r) % 2 ^ W).testBit j =
      (decide (j < W) && bitAt (valOf W as) (W * q + r + j)) := by
  rw [Nat.testBit_or, Nat.testBit_div_two_pow, Nat.testBit_mod_two_pow, Nat.testBit_mul_two_pow,
    testBit_limbAt has, testBit_limbAt has]
  by_cases hj : j < W
  case neg => simp [hj, show ¬j + r < W by omega]
  by_cases hlow : j + r < W
  · have hpos : (W : Int) * q + (j + r : Nat) = W * q + r + j := by omega
    rw [hpos]
    simp [hj, hlow, show ¬W - r ≤ j by omega]
  · have hpos : (W : Int) * (q + 1) + (j - (W - r) : Nat) = W * q + r + j := by
      rw [mul_add]
      omega
    rw [hpos]
    simp [hj, hlow, show W - r ≤ j by omega, show j - (W - r) < W by omega]

end

/-! ### The limbs of the two loops -/

section
variable {W m : Nat} {as : List Nat} (has : ∀ l ∈ as, l < 2 ^ W) (hW : 0 < W) (i j : Nat)
include has hW

theorem testBit_shlLimb : (shlLimb W as m i).testBit j =
    (decide (j < W) && bitAt (valOf W as) (W * i + j - m)) := by
  have hm : (m : Int) = W * (m / W : Nat) + (m % W : Nat) := mod_cast (Nat.div_add_mod m W).symm
  have hbs := Nat.mod_lt m hW
  rw [shlLimb]
  split
  next hzero =>
    have hpos : (W : Int) * (i - (m / W : Nat)) + j = W * i + j - m := by
      rw [hm, hzero]
      push_cast
      ring
    rw [testBit_limbAt has, hpos]
  next =>
    have hjoin := testBit_join_limbs has (i - (m / W : Nat) - 1) (Nat.sub_le W (m % W)) j
    have hpos : (W : Int) * (i - (m / W : Nat) - 1) + (W - m % W : Nat) + j = W * i + j - m := by
      rw [hm, Nat.cast_sub hbs.le]
      ring
    rwa [sub_add_cancel, Nat.sub_sub_self hbs.le, Nat.lor_comm, hpos] at hjoin

theorem testBit_shrLimb : (shrLimb W as m i).testBit j =
    (decide (j < W) && bitAt (valOf W as) (W * i + j + m)) := by
  have hm : (m : Int) = W * (m / W : Nat) + (m % W : Nat) := mod_cast (Nat.div_add_mod m W).symm
  have hbs := Nat.mod_lt m hW
  rw [shrLimb]
  split
  next hzero =>
    have hpos : (W : Int) * (i + (m / W : Nat)) + j = W * i + j + m := by
      rw [hm, hzero]
      push_cast
      ring
    rw [testBit_limbAt has, hpos]
  next =>
    have hpos : (W : Int) * (i + (m / W : Nat)) + (m % W : Nat) + j = W * i + j + m := by
      rw [hm]
      ring
    rw [testBit_join_limbs has _ hbs.le, hpos]

end

section
variable {W N m : Nat} {as : List Nat} (has : ∀ l ∈ as, l < 2 ^ W) (hm : m < W * N)
include has hm

theorem shlLimbs_eq : shlLimbs W N as m = limbsOf W N (valOf W as * 2 ^ m) := by
  refine map_range_eq_limbsOf fun i => Nat.eq_of_testBit_eq fun j => ?_
  have hpos : (W : Int) * i + j - m = (j + W * i : Nat) - m := by
    push_cast
    ring
  rw [testBit_shlLimb has (Nat.pos_of_mul_pos_right (Nat.zero_lt_of_lt hm)),
    Nat.testBit_mod_two_pow, Nat.testBit_div_two_pow, hpos, bitAt_sub]

theorem shrLimbs_eq : shrLimbs W N as m = limbsOf W N (valOf W as / 2 ^ m) := by
  refine map_range_eq_limbsOf fun i => Nat.eq_of_testBit_eq fun j => ?_
  have hpos : (W : Int) * i + j + m = (j + W * i + m : Nat) := by
    push_cast
    ring
  rw [testBit_shrLimb has (Nat.pos_of_mul_pos_right (Nat.zero_lt_of_lt hm)),
    Nat.testBit_mod_two_pow, Nat.testBit_div_two_pow, Nat.testBit_div_two_pow, hpos,
    bitAt_natCast]

end

/-! ### What leaves at either end (R178) -/

/-- Some limb below limb `n` is not 0 exactly when the part of the number below it is not 0. -/
theorem exists_limb_ne_zero_iff (W n x : Nat) :
    (∃ k < n, x / 2 ^ (W * k) % 2 ^ W ≠ 0) ↔ x % 2 ^ (W * n) ≠ 0 := by
  rw [← valOf_limbsOf, valOf_ne_zero_iff]
  simp [mem_limbsOf_iff]

section
variable {W N m : Nat} {as : List Nat} (has : ∀ l ∈ as, l < 2 ^ W)
include has

theorem exists_limbAt_ne_zero_iff (n : Nat) :
    (∃ k < n, limbAt as k ≠ 0) ↔ valOf W as % 2 ^ (W * n) ≠ 0 := by
  simp only [limbAt_natCast has, exists_limb_ne_zero_iff]

/-- Some limb from limb `n` on is not 0 exactly when the number reaches `2^(W*n)`. -/
theorem exists_limbAt_ne_zero_of_le_iff {n : Nat} (hlength : as.length = N) (hn : n ≤ N) :
    (∃ k < N, n ≤ k ∧ limbAt as k ≠ 0) ↔ 2 ^ (W * n) ≤ valOf W as := by
  obtain ⟨d, rfl⟩ := Nat.exists_eq_add_of_le hn
  have hlt : valOf W as / 2 ^ (W * n) < 2 ^ (W * d) := by
    rw [Nat.div_lt_iff_lt_mul (Nat.two_pow_pos _), ← Nat.pow_add, ← Nat.mul_add, Nat.add_comm,
      ← hlength]
    exact valOf_lt has
  calc (∃ k < n + d, n ≤ k ∧ limbAt as k ≠ 0)
      ↔ ∃ k < d, limbAt as (n + k : Nat) ≠ 0 := by
        constructor
        · rintro ⟨k, hk, hle, hne⟩
          obtain ⟨e, rfl⟩ := Nat.exists_eq_add_of_le hle
          exact ⟨e, by omega, hne⟩
        · rintro ⟨k, hk, hne⟩
          exact ⟨n + k, by omega, by omega, hne⟩
    _ ↔ valOf W as / 2 ^ (W * n) ≠ 0 := by
        simp only [limbAt_natCast has, Nat.mul_add, Nat.pow_add, ← Nat.div_div_eq_div_mul,
          exists_limb_ne_zero_iff, Nat.mod_eq_of_lt hlt]
    _ ↔ 2 ^ (W * n) ≤ valOf W as := by simp [Nat.div_eq_zero_iff]

end

/-- A number reaches `2^r` by what stands above its lowest limb or by the high bits of that limb. -/
theorem two_pow_le_iff_limb {W r : Nat} (hr : r ≤ W) (b : Nat) :
    2 ^ W ≤ b ∨ r < W ∧ b % 2 ^ W / 2 ^ r ≠ 0 ↔ 2 ^ r ≤ b := by
  by_cases hb : 2 ^ W ≤ b
  · exact iff_of_true (.inl hb) ((Nat.pow_le_pow_right Nat.two_pos hr).trans hb)
  · have hlow : 2 ^ r ≤ b → r < W := fun hle =>
      (Nat.pow_lt_pow_iff_right Nat.one_lt_two).1 (hle.trans_lt (Nat.lt_of_not_le hb))
    rw [or_iff_right hb, Nat.mod_eq_of_lt (Nat.lt_of_not_le hb), Nat.div_ne_zero_iff,
      and_iff_right (Nat.two_pow_pos r).ne', and_iff_right_of_imp hlow]

/-! The two conditions of R179, in words of logic. -/

theorem shlLimbsCarry_eq_true_iff {W N m : Nat} {as : List Nat} : shlLimbsCarry W N as m = true ↔
    (∃ k < N, N - m / W ≤ k ∧ limbAt as k ≠ 0) ∨
      0 < m % W ∧ limbAt as (N - 1 - (m / W : Nat)) / 2 ^ (W - m % W) ≠ 0 := by
  simp [shlLimbsCarry]

theorem shrLimbsCarry_eq_true_iff {W N m : Nat} {as : List Nat} : shrLimbsCarry W N as m = true ↔
    (∃ k < N, k < m / W ∧ limbAt as k ≠ 0) ∨
      0 < m % W ∧ limbAt as (m / W : Nat) % 2 ^ (m % W) ≠ 0 := by
  simp [shrLimbsCarry]

section
variable {W N m : Nat} {as : List Nat} (has : ∀ l ∈ as, l < 2 ^ W) (hm : m < W * N)
include has hm

/-- The whole limbs and the high bits of the next limb that leave are what exceeds `T` bits. -/
theorem shlLimbsCarry_iff_two_pow_le (hlength : as.length = N) :
    shlLimbsCarry W N as m = true ↔ 2 ^ (W * N) ≤ valOf W as * 2 ^ m := by
  have hbs : m % W < W := Nat.mod_lt m (Nat.pos_of_mul_pos_right (Nat.zero_lt_of_lt hm))
  obtain ⟨k, hk⟩ : ∃ k, N = m / W + (k + 1) := Nat.exists_eq_add_of_lt (Nat.div_lt_of_lt_mul hm)
  have hindex : (N : Int) - 1 - (m / W : Nat) = k := by omega
  have hsplit (r : Nat) : 2 ^ (W * k + r) ≤ valOf W as ↔ 2 ^ r ≤ valOf W as / 2 ^ (W * k) := by
    rw [Nat.le_div_iff_mul_le (Nat.two_pow_pos _), Nat.pow_add, Nat.mul_comm]
  have hwhole : (∃ l < N, N - m / W ≤ l ∧ limbAt as l ≠ 0) ↔
      2 ^ W ≤ valOf W as / 2 ^ (W * k) := by
    rw [exists_limbAt_ne_zero_of_le_iff has hlength (Nat.sub_le ..), ← hsplit, ← Nat.mul_succ, hk,
      Nat.add_sub_cancel_left]
  have hbits : W * N - m = W * k + (W - m % W) := by
    have := Nat.div_add_mod m W
    rw [hk, Nat.mul_add, Nat.mul_succ]
    omega
  have hpart : 0 < m % W ↔ W - m % W < W := by omega
  rw [shlLimbsCarry_eq_true_iff, hwhole, hindex, limbAt_natCast has, hpart,
    two_pow_le_iff_limb (Nat.sub_le ..), two_pow_le_mul_two_pow hm, hbits, hsplit]

/-- The whole limbs and the low bits of the next limb that leave are the low `m` bits. -/
theorem shrLimbsCarry_iff_mod_ne_zero : shrLimbsCarry W N as m = true ↔ valOf W as % 2 ^ m ≠ 0 := by
  have hls : m / W < N := Nat.div_lt_of_lt_mul hm
  have hbs : m % W < W := Nat.mod_lt m (Nat.pos_of_mul_pos_right (Nat.zero_lt_of_lt hm))
  have hwhole : (∃ k < N, k < m / W ∧ limbAt as k ≠ 0) ↔ valOf W as % 2 ^ (W * (m / W)) ≠ 0 := by
    rw [← exists_limbAt_ne_zero_iff has]
    exact exists_congr fun k => and_iff_right_of_imp fun ⟨hk, _⟩ => hk.trans hls
  have hpart : limbAt as (m / W : Nat) % 2 ^ (m % W) =
      valOf W as / 2 ^ (W * (m / W)) % 2 ^ (m % W) := by
    rw [limbAt_natCast has, Nat.mod_mod_of_dvd _ (Nat.pow_dvd_pow 2 hbs.le)]
  have hsum : valOf W as % 2 ^ m = valOf W as % 2 ^ (W * (m / W)) +
      2 ^ (W * (m / W)) * (valOf W as / 2 ^ (W * (m / W)) % 2 ^ (m % W)) := by
    rw [← Nat.mod_mul, ← Nat.pow_add, Nat.div_add_mod]
  have hpos : valOf W as / 2 ^ (W * (m / W)) % 2 ^ (m % W) ≠ 0 → 0 < m % W := by
    contrapose!
    intro hzero
    rw [Nat.le_zero.1 hzero, pow_zero, Nat.mod_one]
  rw [shrLimbsCarry_eq_true_iff, hwhole, hpart, and_iff_right_of_imp hpos, hsum]
  simp [imp_iff_not_or]

end

/-! ### The obligation on the loops -/

/-- A number written, by its limbs and by the test for its carry (R179). -/
theorem exists_next_of_shift {i : Instr} {s : State} {rd : Reg} {fl mask : Flags} {x : Nat}
    {ls : List Nat} {carry leaves : Prop} [Decidable carry] [Decidable leaves]
    (hls : ls = limbsOf s.W s.N x) (hcarry : carry ↔ leaves)
    (h : exec i s = writes rd x (fl ||| if leaves then mask else 0#7) s) :
    ∃ t : State, exec i s = .next t ∧ (t.reg rd).limbs = ls ∧
      t.flags rd = fl ||| (if carry then mask else 0#7) := by
  refine ⟨_, h, ?_, ?_⟩
  · rw [reg_of_writes rfl, hls]
  · rw [State.flags, reg_of_writes rfl, if_congr hcarry rfl rfl]

/-- Settles O56: each loop computes the limbs of the shifted number, and looks for its carry exactly
at the bits that leave. -/
theorem limbShifter : Obligations.LimbShifter := by
  intro s rd ra m hs ha hn hm
  have has := State.limbs_lt hs ra
  have hlength := State.length_limbs hs ra
  refine ⟨exists_next_of_shift ?_ (shlLimbsCarry_iff_two_pow_le has hm hlength)
      (exec_shl_of_amount ha hn (shiftLeft_natCast.trans (shlCore_of_lt hm))),
    exists_next_of_shift (shrLimbs_eq has hm) (shrLimbsCarry_iff_mod_ne_zero has hm)
      (exec_shr_of_amount ha hn (shiftRight_natCast.trans (shrCore_of_lt hm)))⟩
  exact (shlLimbs_eq has hm).trans (limbsOf_mod ..).symm

end Sys2Proof.Machine
end

section
/-! PROOFS. The logic unit (spec/46_logic.md R190 to R194): the four commands on the numbers, and the
operations on each limb. AND, OR and XOR are `Nat.bitwise` of a Boolean operation, which commutes with
cutting a number into limbs. -/

namespace Sys2Proof.Machine

/-! ### What the four commands answer -/

section
variable {s : State} {rd ra rb : Reg} (ha : s.constructed ra = true)
include ha

theorem exec_not_of_constructed : exec (.not rd ra) s =
    writes rd (2 ^ s.T - 1 - s.value ra) (s.flags ra) s := by
  rw [exec, execNot, withSource_of_constructed ha, accumulate_none]

variable (hb : s.constructed rb = true)
include hb

theorem exec_and_of_constructed : exec (.and rd ra rb) s =
    writes rd (s.value ra &&& s.value rb) (s.flags ra ||| s.flags rb) s := by
  rw [exec, execAnd, withSources_of_constructed ha hb, accumulate₂_none]

theorem exec_or_of_constructed : exec (.or rd ra rb) s =
    writes rd (s.value ra ||| s.value rb) (s.flags ra ||| s.flags rb) s := by
  rw [exec, execOr, withSources_of_constructed ha hb, accumulate₂_none]

theorem exec_xor_of_constructed : exec (.xor rd ra rb) s =
    writes rd (s.value ra ^^^ s.value rb) (s.flags ra ||| s.flags rb) s := by
  rw [exec, execXor, withSources_of_constructed ha hb, accumulate₂_none]

end

/-! ### The obligations on the four commands -/

/-- Settles O21: a bitwise combination of two numbers below `2^T` is below `2^T`, so it is written
whole. -/
theorem andOrXorCommands : Obligations.AndOrXorCommands := by
  refine ⟨fun rd ra rb => ⟨decodeOfEncode (.and rd ra rb) rfl, decodeOfEncode (.or rd ra rb) rfl,
    decodeOfEncode (.xor rd ra rb) rfl⟩, fun s rd ra rb hs => ⟨fun ha hb => ?_, fun hsrc =>
      ⟨faultsWith_of_needs_needs rfl hsrc, faultsWith_of_needs_needs rfl hsrc,
        faultsWith_of_needs_needs rfl hsrc⟩⟩⟩
  have hlta := s.value_lt hs ra
  have hltb := s.value_lt hs rb
  exact ⟨writesValue_of_exec (exec_and_of_constructed ha hb) (Nat.and_lt_two_pow _ hltb),
    writesValue_of_exec (exec_or_of_constructed ha hb) (Nat.or_lt_two_pow hlta hltb),
    writesValue_of_exec (exec_xor_of_constructed ha hb) (Nat.xor_lt_two_pow hlta hltb)⟩

/-- Settles O22: the complement to `2^T - 1` is below `2^T`. -/
theorem notCommand : Obligations.NotCommand :=
  ⟨fun rd ra => decodeOfEncode (.not rd ra) rfl, fun s _ _ _ =>
    ⟨fun ha => writesValue_of_exec (exec_not_of_constructed ha)
        ((Nat.sub_le _ _).trans_lt (Nat.sub_lt (Nat.two_pow_pos s.T) Nat.one_pos)),
      faultsWith_of_needs rfl⟩⟩

/-! ### The operations on each limb (R190) -/

theorem valOf_cons_mod {W l : Nat} (hl : l < 2 ^ W) (ls : List Nat) :
    valOf W (l :: ls) % 2 ^ W = l := by
  rw [valOf, Nat.add_mul_mod_self_left, Nat.mod_eq_of_lt hl]

theorem valOf_cons_div {W l : Nat} (hl : l < 2 ^ W) (ls : List Nat) :
    valOf W (l :: ls) / 2 ^ W = valOf W ls := by
  rw [valOf, Nat.add_mul_div_left _ _ (Nat.two_pow_pos W), Nat.div_eq_of_lt hl, Nat.zero_add]

/-- Operating on each limb gives the limbs of the operation on the numbers. That the operation keeps
zero bits zero is what keeps the limbs apart. -/
theorem zipWith_bitwise_eq_limbsOf {f : Bool → Bool → Bool} (hf : f false false = false) {W : Nat}
    {as bs : List Nat} (hlength : as.length = bs.length) (has : ∀ l ∈ as, l < 2 ^ W)
    (hbs : ∀ l ∈ bs, l < 2 ^ W) : List.zipWith (Nat.bitwise f) as bs =
      limbsOf W as.length (Nat.bitwise f (valOf W as) (valOf W bs)) := by
  induction as generalizing bs with
  | nil => rfl
  | cons a as ih =>
    obtain _ | ⟨b, bs⟩ := bs
    · simp at hlength
    obtain ⟨ha, has⟩ := List.forall_mem_cons.1 has
    obtain ⟨hb, hbs⟩ := List.forall_mem_cons.1 hbs
    rw [List.zipWith_cons_cons, ih (Nat.succ_inj.1 hlength) has hbs, List.length_cons, limbsOf,
      Nat.bitwise_mod_two_pow hf, Nat.bitwise_div_two_pow hf, valOf_cons_mod ha,
      valOf_cons_mod hb, valOf_cons_div ha, valOf_cons_div hb]

/-- The complement borrows nothing from limb to limb: in every limb it is taken from all ones. -/
theorem notLimbs_eq_limbsOf {W : Nat} {as : List Nat} (has : ∀ l ∈ as, l < 2 ^ W) :
    notLimbs W as = limbsOf W as.length (2 ^ (W * as.length) - 1 - valOf W as) := by
  induction as with
  | nil => rfl
  | cons a as ih =>
    obtain ⟨ha, has⟩ := List.forall_mem_cons.1 has
    have hdigit : 2 ^ W - 1 - a < 2 ^ W := by omega
    have hsplit : 2 ^ (W * (as.length + 1)) - 1 - valOf W (a :: as) =
        (2 ^ W - 1 - a) + 2 ^ W * (2 ^ (W * as.length) - 1 - valOf W as) := by
      obtain ⟨k, hk⟩ := Nat.exists_eq_add_of_lt (valOf_lt has)
      have hrest : 2 ^ (W * as.length) - 1 - valOf W as = k := by omega
      rw [hrest, Nat.mul_succ, Nat.pow_add, hk, Nat.add_mul, Nat.add_mul, Nat.one_mul, valOf,
        Nat.mul_comm (valOf W as), Nat.mul_comm k]
      omega
    rw [List.length_cons, hsplit, limbsOf_succ_add_mul, Nat.mod_eq_of_lt hdigit,
      Nat.div_eq_of_lt hdigit, Nat.add_zero, ← ih has]
    rfl

/-! ### The obligation on the limbs -/

theorem exists_next_of_limbs {i : Instr} {s : State} {rd : Reg} {fl : Flags} {x : Nat}
    {ls : List Nat} (hls : ls = limbsOf s.W s.N x) (h : exec i s = writes rd x fl s) :
    ∃ t : State, exec i s = .next t ∧ (t.reg rd).limbs = ls :=
  ⟨_, h, by rw [reg_of_writes rfl, hls]⟩

/-- Settles O57: each command writes the number whose limbs are the operation's, limb by limb. -/
theorem limbwiseLogic : Obligations.LimbwiseLogic := by
  intro s rd ra rb hs ha
  have hlength := State.length_limbs hs
  have hbitwise {f : Bool → Bool → Bool} (hf : f false false = false) :
      List.zipWith (Nat.bitwise f) (s.reg ra).limbs (s.reg rb).limbs =
        limbsOf s.W s.N (Nat.bitwise f (s.value ra) (s.value rb)) := by
    rw [zipWith_bitwise_eq_limbsOf hf ((hlength ra).trans (hlength rb).symm)
      (State.limbs_lt hs ra) (State.limbs_lt hs rb), hlength]
    rfl
  refine ⟨fun hb => ⟨exists_next_of_limbs (hbitwise (f := and) rfl) (exec_and_of_constructed ha hb),
    exists_next_of_limbs (hbitwise (f := or) rfl) (exec_or_of_constructed ha hb),
    exists_next_of_limbs (hbitwise (f := bne) rfl) (exec_xor_of_constructed ha hb)⟩,
    exists_next_of_limbs ?_ (exec_not_of_constructed ha)⟩
  rw [notLimbs_eq_limbsOf (State.limbs_lt hs ra), hlength]
  rfl

end Sys2Proof.Machine
end

section
/-! PROOFS. The comparator (spec/47_compare.md R201 to R203): the two commands on the numbers, and the
comparison from the top limb, which is that of the numbers because what stands below a limb never
outweighs a difference in it. -/

namespace Sys2Proof.Machine

/-! ### The response code (R200) -/

section
variable {a b : Nat}

theorem compareCode_of_eq (h : a = b) : compareCode a b = 1 := if_pos h

theorem compareCode_of_lt (h : a < b) : compareCode a b = 2 :=
  (if_neg h.ne).trans (if_pos h)

theorem compareCode_of_gt (h : b < a) : compareCode a b = 4 :=
  (if_neg h.ne').trans (if_neg h.not_gt)

/-- The parts above position `m` decide, unless they are equal. -/
theorem compareCode_add_mul {m x y : Nat} (hx : x < m) (hy : y < m) :
    compareCode (x + m * a) (y + m * b) = if a = b then compareCode x y else compareCode a b := by
  have hless {c d u v : Nat} (hu : u < m) (h : c < d) : u + m * c < v + m * d :=
    calc u + m * c < m + m * c := Nat.add_lt_add_right hu _
      _ = m * (c + 1) := by rw [Nat.mul_succ, Nat.add_comm]
      _ ≤ m * d := Nat.mul_le_mul_left m h
      _ ≤ v + m * d := Nat.le_add_left ..
  obtain h | rfl | h := Nat.lt_trichotomy a b
  · rw [if_neg h.ne, compareCode_of_lt h, compareCode_of_lt (hless hx h)]
  · simp only [if_true, compareCode, Nat.add_right_cancel_iff, Nat.add_lt_add_iff_right]
  · rw [if_neg h.ne', compareCode_of_gt h, compareCode_of_gt (hless hy h)]

end

/-! ### The comparison from the top limb (R203) -/

/-- One round of the loop: the first difference decides. -/
theorem compareDown_cons (a b : Nat) (as bs : List Nat) :
    compareDown (a :: as) (b :: bs) = if a = b then compareDown as bs else compareCode a b := by
  rw [compareDown]
  obtain h | rfl | h := Nat.lt_trichotomy a b
  · rw [if_pos h, if_neg h.ne, compareCode_of_lt h]
  · rw [if_neg a.lt_irrefl, if_neg a.lt_irrefl, if_pos rfl]
  · rw [if_neg h.not_gt, if_pos h, if_neg h.ne', compareCode_of_gt h]

/-- The loop holds the most significant limb first, the sequence that spells the number last. -/
theorem compareDown_eq_compareCode {W : Nat} {as bs : List Nat} (hlength : as.length = bs.length)
    (has : ∀ l ∈ as, l < 2 ^ W) (hbs : ∀ l ∈ bs, l < 2 ^ W) :
    compareDown as bs = compareCode (valOf W as.reverse) (valOf W bs.reverse) := by
  induction as generalizing bs with
  | nil =>
    obtain rfl := List.length_eq_zero_iff.1 hlength.symm
    exact (compareCode_of_eq rfl).symm
  | cons a as ih =>
    obtain _ | ⟨b, bs⟩ := bs
    · simp at hlength
    have hlength := Nat.succ_inj.1 hlength
    obtain ⟨-, has⟩ := List.forall_mem_cons.1 has
    obtain ⟨-, hbs⟩ := List.forall_mem_cons.1 hbs
    have hlow {ls : List Nat} (h : ∀ l ∈ ls, l < 2 ^ W) :
        valOf W ls.reverse < 2 ^ (W * ls.length) := by
      simpa using valOf_lt fun l hl => h l (List.mem_reverse.1 hl)
    have hsplit (l : Nat) (ls : List Nat) : valOf W (l :: ls).reverse =
        valOf W ls.reverse + 2 ^ (W * ls.length) * l := by
      simp [valOf_append, valOf]
    rw [compareDown_cons, ih hlength has hbs, hsplit, hsplit, ← hlength,
      compareCode_add_mul (hlow has) (hlength ▸ hlow hbs)]

theorem compareLimbs_eq_compareCode {W : Nat} {as bs : List Nat} (hlength : as.length = bs.length)
    (has : ∀ l ∈ as, l < 2 ^ W) (hbs : ∀ l ∈ bs, l < 2 ^ W) :
    compareLimbs as bs = compareCode (valOf W as) (valOf W bs) := by
  rw [compareLimbs, compareDown_eq_compareCode (W := W) (by simpa using hlength) (by simpa using has)
    (by simpa using hbs), List.reverse_reverse, List.reverse_reverse]

/-- A limb zero-extended to more limbs spells the limb (R202). -/
theorem valOf_cons_replicate_zero (W l n : Nat) : valOf W (l :: List.replicate n 0) = l := by
  rw [valOf, valOf_replicate_zero, Nat.mul_zero, Nat.add_zero]

/-! ### What the two commands answer -/

section
variable {s : State} {ra rb : Reg} (ha : s.constructed ra = true)
include ha

theorem exec_cmps_of_constructed :
    exec (.cmps ra) s = answers (compareCode (s.value ra) s.limbIn) s := by
  rw [exec, execCmps, withSource_of_constructed ha]

theorem exec_cmp_of_constructed (hb : s.constructed rb = true) :
    exec (.cmp ra rb) s = answers (compareCode (s.value ra) (s.value rb)) s := by
  rw [exec, execCmp, withSources_of_constructed ha hb]

end

/-- A command that answers the code of a comparison answers 1, 2 or 4 (R200). -/
theorem answersData_of_compareCode {i : Instr} {s : State} {a b : Nat}
    (h : exec i s = answers (compareCode a b) s) :
    (a = b → AnswersData i s 1) ∧ (a < b → AnswersData i s 2) ∧ (b < a → AnswersData i s 4) :=
  have hcode {d : Nat} (hd : compareCode a b = d) : AnswersData i s d :=
    hd ▸ answersData_of_exec h
  ⟨fun hab => hcode (compareCode_of_eq hab), fun hab => hcode (compareCode_of_lt hab),
    fun hab => hcode (compareCode_of_gt hab)⟩

/-! ### The obligations -/

/-- Settles O58: each command answers the code of the numbers, which the limbs give from the top. -/
theorem limbwiseComparator : Obligations.LimbwiseComparator := by
  intro s ra rb hs ha
  have hlength := State.length_limbs hs
  have hlimbs := State.limbs_lt hs
  refine ⟨fun hb => ?_, ?_⟩
  · rw [compareLimbs_eq_compareCode ((hlength ra).trans (hlength rb).symm) (hlimbs ra) (hlimbs rb)]
    exact answersData_of_exec (exec_cmp_of_constructed ha hb)
  · have hN : 0 < s.N := hlength ra ▸ List.length_pos_of_ne_nil (State.limbs_ne_nil hs ra)
    have hextended : (s.reg ra).limbs.length = (s.limbIn :: List.replicate (s.N - 1) 0).length := by
      rw [hlength, List.length_cons, List.length_replicate, Nat.sub_add_cancel hN]
    rw [compareLimbs_eq_compareCode hextended (hlimbs ra)
      (List.forall_mem_cons.2 ⟨limbIn_lt s, replicate_zero_lt s.W _⟩), valOf_cons_replicate_zero]
    exact answersData_of_exec (exec_cmps_of_constructed ha)

/-- Settles O23: the three orders of the two values are the three cases of the code. -/
theorem cmpCommand : Obligations.CmpCommand :=
  ⟨fun ra rb => decodeOfEncode (.cmp ra rb) rfl, fun _ _ _ =>
    ⟨fun ha hb => answersData_of_compareCode (exec_cmp_of_constructed ha hb),
      faultsWith_of_needs_needs rfl⟩⟩

/-- Settles O24: CMPS is CMP with the limb as the integer on the right. -/
theorem cmpsCommand : Obligations.CmpsCommand :=
  ⟨fun ra => decodeOfEncode (.cmps ra) rfl, fun _ _ =>
    ⟨fun ha => answersData_of_compareCode (exec_cmps_of_constructed ha), faultsWith_of_needs rfl⟩⟩

end Sys2Proof.Machine
end

section
/-! PROOFS. The fixed order of the faults (spec/60_exceptions.md R231 to R238): a command that a
word can spell takes the fault of the one cause `causeIn` names, or completes if it names none
(`exec_reports`), since the checks it makes stand in that order around its work. -/

namespace Sys2Proof.Machine

/-! ### The cause a result reports -/

/-- The result of a command in `s` whose first fault condition is `c`: the fault `c` (R236), or, if
there is none, a completion, which leaves `STATUS` and responds with `rsp_fault = 0`. -/
inductive Reports (s : State) : Cause → Result → Prop where
  | fault {c : Cause} (hc : c ≠ .noFault) : Reports s c (faulted c s)
  | completes {t : State} {d : Nat} (hstatus : t.status = s.status)
      (hadded : t.responses = { fault := false, data := d } :: s.responses) :
      Reports s .noFault (.next t)

namespace Reports

section
variable {s t : State} {c : Cause}

theorem eq_raiseFault (h : Reports s c (.next t)) (hc : c ≠ .noFault) : t = s.raiseFault c := by
  cases h with
  | fault => rfl
  | completes => exact absurd rfl hc

theorem completed (h : Reports s c (.next t)) (hc : c = .noFault) :
    t.status = s.status ∧ ∃ d, t.responses = { fault := false, data := d } :: s.responses := by
  cases h with
  | fault hne => exact absurd hc hne
  | completes hstatus hadded => exact ⟨hstatus, _, hadded⟩

theorem ne_noFault_of_halted (h : Reports s c (.next t)) (hrun : s.status.halted = false)
    (hhalt : t.status.halted = true) : c ≠ .noFault := by
  intro hc
  obtain ⟨hstatus, -⟩ := h.completed hc
  rw [hstatus, hrun] at hhalt
  cases hhalt

end

/-! Each check puts its condition before those that follow it. -/

section
variable {s : State} {c : Cause} {go : Result}

/-- One check: its fault if the condition holds, else what follows. -/
theorem of_check {p : Prop} [Decidable p] {c' : Cause} (hc' : c' ≠ .noFault)
    (h : Reports s c go) :
    Reports s (if p then c' else c) (if p then faulted c' s else go) := by
  split
  · exact .fault hc'
  · exact h

theorem of_withLimbIndex {idx : Nat} (h : Reports s c go) :
    Reports s (if decide (s.N ≤ idx) then .operandRange else c) (withLimbIndex idx s go) := by
  simp only [decide_eq_true_eq]
  exact of_check (by decide) h

/-- Of the indices an `f` field can carry only 7 is out of range (R75, R232). -/
theorem of_withFlagIndex {f : Nat} (hf : f < 8) (h : Reports s c go) :
    Reports s (if decide (f = 7) then .operandRange else c) (withFlagIndex f s go) := by
  have hseven : f = 7 ↔ 7 ≤ f := by omega
  simp only [decide_eq_true_eq, hseven]
  exact of_check (by decide) h

theorem of_withDivisor {b : Nat} (h : Reports s c go) :
    Reports s (if decide (b = 0) then .divideByZero else c) (withDivisor b s go) := by
  simp only [decide_eq_true_eq]
  exact of_check (by decide) h

theorem of_needs {ra : Reg} (h : Reports s c go) :
    Reports s (if [ra].any (fun r => !s.constructed r) then .unconstructed else c)
      (needs ra s go) := by
  cases ha : s.constructed ra with
  | true => simpa [needs, ha] using h
  | false => simpa [needs, ha] using fault (by decide)

/-- Two sources are one check: either of them missing is the same fault (R238 step 3). -/
theorem of_needs_needs {ra rb : Reg} (h : Reports s c go) :
    Reports s (if [ra, rb].any (fun r => !s.constructed r) then .unconstructed else c)
      (needs ra s (needs rb s go)) := by
  cases ha : s.constructed ra with
  | true => simpa [needs_of_constructed ha, ha] using of_needs (ra := rb) h
  | false => simpa [needs_of_unconstructed ha, ha] using fault (by decide)

end

end Reports

/-- A command that a word can spell reports the first of its conditions in the order of R238. -/
theorem exec_reports {i : Instr} (hwf : i.wf = true) (s : State) :
    Reports s (i.causeIn s) (exec i s) := by
  cases i with
  | zero | one | max | fromw => exact .completes rfl rfl
  | mov | adds | subs | muls | shl | shr | not | cmps | clrall | rdf =>
    exact .of_needs (.completes rfl rfl)
  | add | sub | mul | and | or | xor | cmp => exact .of_needs_needs (.completes rfl rfl)
  | div | rem => exact .of_needs_needs (.of_withDivisor (.completes rfl rfl))
  | divs | rems => exact .of_needs (.of_withDivisor (.completes rfl rfl))
  | setl | getl => exact .of_withLimbIndex (.of_needs (.completes rfl rfl))
  | tstf _ f | setf _ f | clrf _ f =>
    have hf : f < 8 := of_decide_eq_true hwf
    exact .of_withFlagIndex hf (.of_needs (.completes rfl rfl))

theorem wf_of_decode {w : CmdWord} {i : Instr} (h : decode w = some i) : i.wf = true :=
  have ⟨hwf, _⟩ := encodeOfDecode w i h
  hwf

/-- An accepted legal word reports the first condition of its command, with the ports as sampled. -/
theorem step_reports {s : State} {c : Command} {rest : List HostInput} {i : Instr}
    (hin : s.inputs = .command c :: rest) (hrun : s.status.halted = false)
    (hdec : decode c.cmd = some i) :
    Reports (s.accept c rest) (i.causeIn (s.accept c rest)) (step s) := by
  rw [step_of_decode_eq_some hin hrun hdec]
  exact exec_reports (wf_of_decode hdec) _

/-! ### The obligations on faults -/

/-- Settles O34: an illegal word takes its fault at once, and a legal word's command reports its
first condition. -/
theorem firstCauseReported : Obligations.FirstCauseReported := by
  intro s c rest hin hrun
  cases hdec : decode c.cmd with
  | none => exact ⟨_, step_of_decode_eq_none hin hrun hdec, fun _ => rfl, nofun⟩
  | some i =>
    obtain ⟨t, ht⟩ := exec_next i (s.accept c rest)
    have hstep : step s = .next t := (step_of_decode_eq_some hin hrun hdec).trans ht
    have hreports := hstep ▸ step_reports hin hrun hdec
    refine ⟨t, hstep, nofun, ?_⟩
    rintro _ ⟨⟩
    exact ⟨hreports.completed, fun hc => congrArg State.status (hreports.eq_raiseFault hc)⟩

/-- Settles O35: the block halts only by `raiseFault`, which writes no register. -/
theorem faultsArePrecise : Obligations.FaultsArePrecise := by
  intro s t c rest hin hrun hstep hhalt
  cases hdec : decode c.cmd with
  | none =>
    rw [step_of_decode_eq_none hin hrun hdec] at hstep
    cases hstep
    exact ⟨fun _ => rfl, rfl, Cause.noConfusion, fun _ => rfl, nofun, rfl, rfl, rfl⟩
  | some i =>
    have hreports := hstep ▸ step_reports hin hrun hdec
    have hc := hreports.ne_noFault_of_halted hrun hhalt
    obtain rfl := hreports.eq_raiseFault hc
    refine ⟨fun _ => rfl, rfl, hc, nofun, ?_, rfl, rfl, rfl⟩
    rintro _ ⟨⟩
    rfl

end Sys2Proof.Machine
end

section
/-! PROOFS. Reset, idleness and the halted state (spec/60_exceptions.md R237, R244;
spec/70_reset_and_hazards.md R260), and that the reset state is well formed (R4, R21, R32). -/

namespace Sys2Proof.Machine

/-! ### A step that accepts no command -/

@[simp] theorem State.takeReset_constructed (s : State) (rest : List HostInput) (r : Reg) :
    (s.takeReset rest).constructed r = false := by
  rw [State.constructed, State.takeReset_reg]

section
variable {s : State} {rest : List HostInput}

theorem step_of_reset (hin : s.inputs = .reset :: rest) : step s = .next (s.takeReset rest) := by
  simp only [step, hin]

theorem step_of_idle (hin : s.inputs = []) (hrun : s.status.halted = false) :
    step s = .next s := by
  simp only [step, hin, State.cmdReady_iff.2 hrun, if_true, idle]

end

section
variable {s : State} (hhalt : s.status.halted = true)
include hhalt

theorem State.cmdReady_of_halted : s.cmdReady = false := by
  rw [State.cmdReady, hhalt, Bool.not_true]

theorem step_of_halted_command {c : Command} {rest : List HostInput}
    (hin : s.inputs = .command c :: rest) : step s = .fault .halted := by
  simp only [step, hin, State.cmdReady_of_halted hhalt, Bool.false_eq_true, if_false, stuck]

theorem step_of_halted_nil (hin : s.inputs = []) : step s = .fault .halted := by
  simp only [step, hin, State.cmdReady_of_halted hhalt, Bool.false_eq_true, if_false, stuck]

/-- Of the four transitions only a reset leaves a halted state (R237). -/
theorem Transition.exists_reset {t : State} (h : Transition s t) :
    ∃ rest, s.inputs = .reset :: rest ∧ t = s.takeReset rest := by
  cases h with
  | reset hin => exact ⟨_, hin, rfl⟩
  | illegal _ hrun | command _ hrun | idle _ hrun =>
    exact absurd (hrun.symm.trans hhalt) (by decide)

end

/-! ### The reset state -/

theorem resetWith_wf {c : Config} (hc : c.wf = true) : (State.resetWith c).wf = true := by
  refine State.wf_iff.2 ⟨hc, fun r => ?_, rfl, nofun⟩
  rw [State.resetWith_reg]
  exact limbsWf_iff.2 ⟨List.length_replicate, replicate_zero_lt _ _⟩

/-! ### The obligations on reset and halting -/

/-- Settles O30: a step takes a reset without looking at `STATUS`. -/
theorem resetInputTaken : Obligations.ResetInputTaken := fun s rest hin =>
  ⟨_, step_of_reset hin, s.takeReset_constructed rest, rfl, rfl, rfl, rfl⟩

/-- Settles O33: a block that is ready and finds no input idles. -/
theorem idleBlockUnchanged : Obligations.IdleBlockUnchanged := fun _ => step_of_idle

/-- Settles O32: a halted block is not ready, and every transition but a reset needs that. -/
theorem haltedBlockOnlyResets : Obligations.HaltedBlockOnlyResets := by
  intro s hhalt
  refine ⟨State.cmdReady_of_halted hhalt, fun _ _ => step_of_halted_command hhalt,
    step_of_halted_nil hhalt, fun t ht => ?_⟩
  obtain ⟨rest, hin, rfl⟩ := (step_transition ht).exists_reset hhalt
  exact ⟨⟨rest, hin⟩, rfl, s.takeReset_constructed rest⟩

/-- Settles O37: the limbs after reset are `N` zeros, and the reference configuration is legal. -/
theorem resetIsWellFormed : Obligations.ResetIsWellFormed :=
  ⟨resetWith_wf (c := Config.reference) (by decide), fun _ => resetWith_wf⟩

end Sys2Proof.Machine
end

section
/-! PROOFS. Words written out from the encoding tables (spec/30_encoding.md R75, R80, R81). -/

namespace Sys2Proof

/-- Settles O1: the decoder computes each of the words. -/
theorem spelledWordsDecode : Obligations.SpelledWordsDecode := by
  unfold Obligations.SpelledWordsDecode
  decide

end Sys2Proof
end
